-- ==== Sys2Proof/Word.lean ====
section
/-!
DEFINITION. Sys2Proof/Word.lean: the two value types of the machine (00_scope R8): a byte is 8 bits, a word 16 bits.
-/

namespace Sys2Proof

/-- A byte: 8 bits, an unsigned integer in 0 to 255 (R8). -/
abbrev Byte := BitVec 8

/-- A word: 16 bits, an unsigned integer in 0 to 65535; every address is one (R8). -/
abbrev Word := BitVec 16

end Sys2Proof
end

