-- ==== Sys2Proof/Config.lean ====
section
/-!
DEFINITION. Sys2Proof/Config.lean: what nothing inside the block fixes: the requests that may be made of it, the answers
of the peripherals and an endless schedule of requests. The open parameters of 00_scope R7 are arguments where they are
used: RESET_A to RESET_P and RAM_INIT are the ResetValues of a `reset`, ROM is the image that `romLoad` carries, and
OPCODE_MAP is the argument of decodeWith and the field opcodeMap of State (Decode.lean, Machine/State.lean).
-/

namespace Sys2Proof.Machine

/-- The open parameters of 10_state R46 that a `reset` takes: RESET_A, RESET_X, RESET_Y, RESET_SP, RESET_P, a `PC` that
means nothing until `pc_load`, and RAM_INIT from RAM[0] on. -/
structure ResetValues where
  a : Byte
  x : Byte
  y : Byte
  sp : Byte
  p : Byte
  pc : Word
  ram : List Byte
  deriving DecidableEq, Repr

/-- What may be asked of the block between two requests (10_state R34 to R38, R43, R46), and the one change its
environment makes to an input of it, the IRQ level (R36). -/
inductive Request where
  | step
  | nmi
  | irqLevel (level : Bool)
  | reset (v : ResetValues)
  | pcLoad (w : Word)
  | romLoad (image : List Byte)
  deriving DecidableEq, Repr, Inhabited

end Sys2Proof.Machine

namespace Sys2Proof

/-- DESIGN CHOICE, safe (log entry 5). The bytes that peripheral read ports answer (20_memory R72), and the operands
that no mode delivers (log entry 19): the n-th free byte drawn in a run. It has no body: nothing can be proved of its
values, so a claim holds for every one. -/
opaque Config.freeByte : Nat → Byte

/-- DESIGN CHOICE, safe (log entry 7). An endless schedule of requests and IRQ levels (70_reset_and_hazards R291,
93_implementation_defined U15): the n-th request of a driver that is `free`. It has no body: a claim holds for every
schedule, an `nmi` at each vblank and a level that rises and falls without end among them. -/
opaque Config.driverRequest : Nat → Machine.Request

end Sys2Proof
end

