-- ==== Sys2Proof/Syntax.lean ====
section
/-!
DEFINITION. Sys2Proof/Syntax.lean: the instructions of 30_encoding R110, one constructor for each of the 145 rows of
spec/opcode_table.json: the mnemonic, and for a mnemonic with several rows the addressing mode's tag. An operand is
the operand byte `d` (format F2) or the little-endian operand word `a` (format F3), as R90 gives them.
-/

namespace Sys2Proof

/-- One constructor per opcode byte (30_encoding R110). -/
inductive Instr where
  | ldaImm (d : Byte)  -- LDA imm, A9 (R130, R98)
  | ldaZp (d : Byte)  -- LDA zp, A5 (R130, R99)
  | ldaZpx (d : Byte)  -- LDA zpx, B5 (R130, R100)
  | ldaAbs (a : Word)  -- LDA abs, AD (R130, R102)
  | ldaAbsx (a : Word)  -- LDA absx, BD (R130, R105)
  | ldaAbsy (a : Word)  -- LDA absy, B9 (R130, R106)
  | ldaIndx (d : Byte)  -- LDA indx, A1 (R130, R103)
  | ldaIndy (d : Byte)  -- LDA indy, B1 (R130, R104)
  | ldxImm (d : Byte)  -- LDX imm, A2 (R131, R98)
  | ldxZp (d : Byte)  -- LDX zp, A6 (R131, R99)
  | ldxZpy (d : Byte)  -- LDX zpy, B6 (R131, R101)
  | ldxAbs (a : Word)  -- LDX abs, AE (R131, R102)
  | ldxAbsy (a : Word)  -- LDX absy, BE (R131, R106)
  | ldyImm (d : Byte)  -- LDY imm, A0 (R132, R98)
  | ldyZp (d : Byte)  -- LDY zp, A4 (R132, R99)
  | ldyZpx (d : Byte)  -- LDY zpx, B4 (R132, R100)
  | ldyAbs (a : Word)  -- LDY abs, AC (R132, R102)
  | ldyAbsx (a : Word)  -- LDY absx, BC (R132, R105)
  | staZp (d : Byte)  -- STA zp, 85 (R133, R99)
  | staZpx (d : Byte)  -- STA zpx, 95 (R133, R100)
  | staAbs (a : Word)  -- STA abs, 8D (R133, R102)
  | staAbsx (a : Word)  -- STA absx, 9D (R133, R105)
  | staAbsy (a : Word)  -- STA absy, 99 (R133, R106)
  | staIndx (d : Byte)  -- STA indx, 81 (R133, R103)
  | staIndy (d : Byte)  -- STA indy, 91 (R133, R104)
  | stxZp (d : Byte)  -- STX zp, 86 (R134, R99)
  | stxZpy (d : Byte)  -- STX zpy, 96 (R134, R101)
  | stxAbs (a : Word)  -- STX abs, 8E (R134, R102)
  | styZp (d : Byte)  -- STY zp, 84 (R135, R99)
  | styZpx (d : Byte)  -- STY zpx, 94 (R135, R100)
  | styAbs (a : Word)  -- STY abs, 8C (R135, R102)
  | adcImm (d : Byte)  -- ADC imm, 69 (R141, R98)
  | adcZp (d : Byte)  -- ADC zp, 65 (R141, R99)
  | adcZpx (d : Byte)  -- ADC zpx, 75 (R141, R100)
  | adcAbs (a : Word)  -- ADC abs, 6D (R141, R102)
  | adcAbsx (a : Word)  -- ADC absx, 7D (R141, R105)
  | adcAbsy (a : Word)  -- ADC absy, 79 (R141, R106)
  | adcIndx (d : Byte)  -- ADC indx, 61 (R141, R103)
  | adcIndy (d : Byte)  -- ADC indy, 71 (R141, R104)
  | sbcImm (d : Byte)  -- SBC imm, E9 (R143, R98)
  | sbcZp (d : Byte)  -- SBC zp, E5 (R143, R99)
  | sbcZpx (d : Byte)  -- SBC zpx, F5 (R143, R100)
  | sbcAbs (a : Word)  -- SBC abs, ED (R143, R102)
  | sbcAbsx (a : Word)  -- SBC absx, FD (R143, R105)
  | sbcAbsy (a : Word)  -- SBC absy, F9 (R143, R106)
  | sbcIndx (d : Byte)  -- SBC indx, E1 (R143, R103)
  | sbcIndy (d : Byte)  -- SBC indy, F1 (R143, R104)
  | andImm (d : Byte)  -- AND imm, 29 (R150, R98)
  | andZp (d : Byte)  -- AND zp, 25 (R150, R99)
  | andZpx (d : Byte)  -- AND zpx, 35 (R150, R100)
  | andAbs (a : Word)  -- AND abs, 2D (R150, R102)
  | andAbsx (a : Word)  -- AND absx, 3D (R150, R105)
  | andAbsy (a : Word)  -- AND absy, 39 (R150, R106)
  | andIndx (d : Byte)  -- AND indx, 21 (R150, R103)
  | andIndy (d : Byte)  -- AND indy, 31 (R150, R104)
  | oraImm (d : Byte)  -- ORA imm, 09 (R151, R98)
  | oraZp (d : Byte)  -- ORA zp, 05 (R151, R99)
  | oraZpx (d : Byte)  -- ORA zpx, 15 (R151, R100)
  | oraAbs (a : Word)  -- ORA abs, 0D (R151, R102)
  | oraAbsx (a : Word)  -- ORA absx, 1D (R151, R105)
  | oraAbsy (a : Word)  -- ORA absy, 19 (R151, R106)
  | oraIndx (d : Byte)  -- ORA indx, 01 (R151, R103)
  | oraIndy (d : Byte)  -- ORA indy, 11 (R151, R104)
  | eorImm (d : Byte)  -- EOR imm, 49 (R152, R98)
  | eorZp (d : Byte)  -- EOR zp, 45 (R152, R99)
  | eorZpx (d : Byte)  -- EOR zpx, 55 (R152, R100)
  | eorAbs (a : Word)  -- EOR abs, 4D (R152, R102)
  | eorAbsx (a : Word)  -- EOR absx, 5D (R152, R105)
  | eorAbsy (a : Word)  -- EOR absy, 59 (R152, R106)
  | eorIndx (d : Byte)  -- EOR indx, 41 (R152, R103)
  | eorIndy (d : Byte)  -- EOR indy, 51 (R152, R104)
  | bitZp (d : Byte)  -- BIT zp, 24 (R153, R99)
  | bitAbs (a : Word)  -- BIT abs, 2C (R153, R102)
  | aslAcc  -- ASL acc, 0A (R162, R97)
  | aslZp (d : Byte)  -- ASL zp, 06 (R163, R99)
  | aslZpx (d : Byte)  -- ASL zpx, 16 (R163, R100)
  | aslAbs (a : Word)  -- ASL abs, 0E (R163, R102)
  | aslAbsx (a : Word)  -- ASL absx, 1E (R163, R105)
  | lsrAcc  -- LSR acc, 4A (R164, R97)
  | lsrZp (d : Byte)  -- LSR zp, 46 (R165, R99)
  | lsrZpx (d : Byte)  -- LSR zpx, 56 (R165, R100)
  | lsrAbs (a : Word)  -- LSR abs, 4E (R165, R102)
  | lsrAbsx (a : Word)  -- LSR absx, 5E (R165, R105)
  | rolAcc  -- ROL acc, 2A (R166, R97)
  | rolZp (d : Byte)  -- ROL zp, 26 (R167, R99)
  | rolZpx (d : Byte)  -- ROL zpx, 36 (R167, R100)
  | rolAbs (a : Word)  -- ROL abs, 2E (R167, R102)
  | rolAbsx (a : Word)  -- ROL absx, 3E (R167, R105)
  | rorAcc  -- ROR acc, 6A (R168, R97)
  | rorZp (d : Byte)  -- ROR zp, 66 (R169, R99)
  | rorZpx (d : Byte)  -- ROR zpx, 76 (R169, R100)
  | rorAbs (a : Word)  -- ROR abs, 6E (R169, R102)
  | rorAbsx (a : Word)  -- ROR absx, 7E (R169, R105)
  | cmpImm (d : Byte)  -- CMP imm, C9 (R171, R98)
  | cmpZp (d : Byte)  -- CMP zp, C5 (R171, R99)
  | cmpZpx (d : Byte)  -- CMP zpx, D5 (R171, R100)
  | cmpAbs (a : Word)  -- CMP abs, CD (R171, R102)
  | cmpAbsx (a : Word)  -- CMP absx, DD (R171, R105)
  | cmpAbsy (a : Word)  -- CMP absy, D9 (R171, R106)
  | cmpIndx (d : Byte)  -- CMP indx, C1 (R171, R103)
  | cmpIndy (d : Byte)  -- CMP indy, D1 (R171, R104)
  | cpxImm (d : Byte)  -- CPX imm, E0 (R172, R98)
  | cpxZp (d : Byte)  -- CPX zp, E4 (R172, R99)
  | cpxAbs (a : Word)  -- CPX abs, EC (R172, R102)
  | cpyImm (d : Byte)  -- CPY imm, C0 (R173, R98)
  | cpyZp (d : Byte)  -- CPY zp, C4 (R173, R99)
  | cpyAbs (a : Word)  -- CPY abs, CC (R173, R102)
  | incZp (d : Byte)  -- INC zp, E6 (R180, R99)
  | incZpx (d : Byte)  -- INC zpx, F6 (R180, R100)
  | incAbs (a : Word)  -- INC abs, EE (R180, R102)
  | incAbsx (a : Word)  -- INC absx, FE (R180, R105)
  | decZp (d : Byte)  -- DEC zp, C6 (R181, R99)
  | decZpx (d : Byte)  -- DEC zpx, D6 (R181, R100)
  | decAbs (a : Word)  -- DEC abs, CE (R181, R102)
  | decAbsx (a : Word)  -- DEC absx, DE (R181, R105)
  | inx  -- INX imp, E8 (R182, R96)
  | iny  -- INY imp, C8 (R183, R96)
  | dex  -- DEX imp, CA (R184, R96)
  | dey  -- DEY imp, 88 (R185, R96)
  | tax  -- TAX imp, AA (R190, R96)
  | txa  -- TXA imp, 8A (R191, R96)
  | tay  -- TAY imp, A8 (R192, R96)
  | tya  -- TYA imp, 98 (R193, R96)
  | txs  -- TXS imp, 9A (R194, R96)
  | pha  -- PHA imp, 48 (R200, R96)
  | pla  -- PLA imp, 68 (R201, R96)
  | php  -- PHP imp, 08 (R202, R96)
  | plp  -- PLP imp, 28 (R203, R96)
  | sec  -- SEC imp, 38 (R210, R96)
  | sei  -- SEI imp, 78 (R211, R96)
  | clc  -- CLC imp, 18 (R212, R96)
  | cld  -- CLD imp, D8 (R213, R96)
  | beq (d : Byte)  -- BEQ rel, F0 (R221, R108)
  | bne (d : Byte)  -- BNE rel, D0 (R222, R108)
  | bmi (d : Byte)  -- BMI rel, 30 (R223, R108)
  | bpl (d : Byte)  -- BPL rel, 10 (R224, R108)
  | bcs (d : Byte)  -- BCS rel, B0 (R225, R108)
  | bcc (d : Byte)  -- BCC rel, 90 (R226, R108)
  | bvc (d : Byte)  -- BVC rel, 50 (R227, R108)
  | jmpAbs (a : Word)  -- JMP abs, 4C (R228, R102)
  | jmpInd (a : Word)  -- JMP ind, 6C (R229, R107)
  | jsr (a : Word)  -- JSR abs, 20 (R230, R102)
  | rts  -- RTS imp, 60 (R232, R96)
  | rti  -- RTI imp, 40 (R233, R96)
  | brk  -- BRK imp, 00 (R235, R96)
  deriving DecidableEq, Repr

end Sys2Proof
end

