-- ==== Sys2Proof/WellFormed.lean ====
section
/-!
DEFINITION. Sys2Proof/WellFormed.lean: the thirteen addressing modes and the fifty mnemonics as names (30_encoding
R96 to R108, R110), which of them an instruction has, and the check that the mnemonic has that mode in R110's table.
An operand's width is its type, so this is the one check there is to make.
-/

namespace Sys2Proof

/-- The thirteen addressing modes, by the tags of 30_encoding R96 to R108. -/
inductive Mode where
  | imp | acc | imm | zp | zpx | zpy | abs | absx | absy | indx | indy | ind | rel
  deriving DecidableEq, Repr

/-- The fifty mnemonics of 30_encoding R110. -/
inductive Mnemonic where
  | lda | ldx | ldy | sta | stx | sty | adc | sbc | and | ora
  | eor | bit | asl | lsr | rol | ror | cmp | cpx | cpy | inc
  | dec | inx | iny | dex | dey | tax | txa | tay | tya | txs
  | pha | pla | php | plp | sec | sei | clc | cld | beq | bne
  | bmi | bpl | bcs | bcc | bvc | jmp | jsr | rts | rti | brk
  deriving DecidableEq, Repr

/-- The operand of a mode that names a place on the bus, with its operand byte `d` or operand word `a`
(30_encoding R99 to R107). -/
inductive Place where
  | zp (d : Byte)
  | zpx (d : Byte)
  | zpy (d : Byte)
  | abs (a : Word)
  | absx (a : Word)
  | absy (a : Word)
  | indx (d : Byte)
  | indy (d : Byte)
  | ind (a : Word)
  deriving DecidableEq, Repr

/-- The operand of an instruction: its addressing mode together with the operand bytes fetched (30_encoding R96 to
R108). -/
inductive Operand where
  | implied
  | accumulator
  | immediate (d : Byte)
  | memory (p : Place)
  | relative (d : Byte)
  deriving DecidableEq, Repr

/-- The mode of a place. -/
def Place.mode : Place → Mode
  | .zp _ => .zp
  | .zpx _ => .zpx
  | .zpy _ => .zpy
  | .abs _ => .abs
  | .absx _ => .absx
  | .absy _ => .absy
  | .indx _ => .indx
  | .indy _ => .indy
  | .ind _ => .ind

/-- The mode of an operand. -/
def Operand.mode : Operand → Mode
  | .implied => .imp
  | .accumulator => .acc
  | .immediate _ => .imm
  | .memory p => p.mode
  | .relative _ => .rel

/-- How many operand bytes a mode fetches after the opcode: the formats F1, F2, F3 (30_encoding R90, R91). -/
def Mode.operandBytes : Mode → Nat
  | .imp | .acc => 0
  | .imm | .zp | .zpx | .zpy | .indx | .indy | .rel => 1
  | .abs | .absx | .absy | .ind => 2

/-- The mnemonic of an instruction (30_encoding R110). -/
def Instr.mnemonic : Instr → Mnemonic
  | .ldaImm _ => .lda
  | .ldaZp _ => .lda
  | .ldaZpx _ => .lda
  | .ldaAbs _ => .lda
  | .ldaAbsx _ => .lda
  | .ldaAbsy _ => .lda
  | .ldaIndx _ => .lda
  | .ldaIndy _ => .lda
  | .ldxImm _ => .ldx
  | .ldxZp _ => .ldx
  | .ldxZpy _ => .ldx
  | .ldxAbs _ => .ldx
  | .ldxAbsy _ => .ldx
  | .ldyImm _ => .ldy
  | .ldyZp _ => .ldy
  | .ldyZpx _ => .ldy
  | .ldyAbs _ => .ldy
  | .ldyAbsx _ => .ldy
  | .staZp _ => .sta
  | .staZpx _ => .sta
  | .staAbs _ => .sta
  | .staAbsx _ => .sta
  | .staAbsy _ => .sta
  | .staIndx _ => .sta
  | .staIndy _ => .sta
  | .stxZp _ => .stx
  | .stxZpy _ => .stx
  | .stxAbs _ => .stx
  | .styZp _ => .sty
  | .styZpx _ => .sty
  | .styAbs _ => .sty
  | .adcImm _ => .adc
  | .adcZp _ => .adc
  | .adcZpx _ => .adc
  | .adcAbs _ => .adc
  | .adcAbsx _ => .adc
  | .adcAbsy _ => .adc
  | .adcIndx _ => .adc
  | .adcIndy _ => .adc
  | .sbcImm _ => .sbc
  | .sbcZp _ => .sbc
  | .sbcZpx _ => .sbc
  | .sbcAbs _ => .sbc
  | .sbcAbsx _ => .sbc
  | .sbcAbsy _ => .sbc
  | .sbcIndx _ => .sbc
  | .sbcIndy _ => .sbc
  | .andImm _ => .and
  | .andZp _ => .and
  | .andZpx _ => .and
  | .andAbs _ => .and
  | .andAbsx _ => .and
  | .andAbsy _ => .and
  | .andIndx _ => .and
  | .andIndy _ => .and
  | .oraImm _ => .ora
  | .oraZp _ => .ora
  | .oraZpx _ => .ora
  | .oraAbs _ => .ora
  | .oraAbsx _ => .ora
  | .oraAbsy _ => .ora
  | .oraIndx _ => .ora
  | .oraIndy _ => .ora
  | .eorImm _ => .eor
  | .eorZp _ => .eor
  | .eorZpx _ => .eor
  | .eorAbs _ => .eor
  | .eorAbsx _ => .eor
  | .eorAbsy _ => .eor
  | .eorIndx _ => .eor
  | .eorIndy _ => .eor
  | .bitZp _ => .bit
  | .bitAbs _ => .bit
  | .aslAcc => .asl
  | .aslZp _ => .asl
  | .aslZpx _ => .asl
  | .aslAbs _ => .asl
  | .aslAbsx _ => .asl
  | .lsrAcc => .lsr
  | .lsrZp _ => .lsr
  | .lsrZpx _ => .lsr
  | .lsrAbs _ => .lsr
  | .lsrAbsx _ => .lsr
  | .rolAcc => .rol
  | .rolZp _ => .rol
  | .rolZpx _ => .rol
  | .rolAbs _ => .rol
  | .rolAbsx _ => .rol
  | .rorAcc => .ror
  | .rorZp _ => .ror
  | .rorZpx _ => .ror
  | .rorAbs _ => .ror
  | .rorAbsx _ => .ror
  | .cmpImm _ => .cmp
  | .cmpZp _ => .cmp
  | .cmpZpx _ => .cmp
  | .cmpAbs _ => .cmp
  | .cmpAbsx _ => .cmp
  | .cmpAbsy _ => .cmp
  | .cmpIndx _ => .cmp
  | .cmpIndy _ => .cmp
  | .cpxImm _ => .cpx
  | .cpxZp _ => .cpx
  | .cpxAbs _ => .cpx
  | .cpyImm _ => .cpy
  | .cpyZp _ => .cpy
  | .cpyAbs _ => .cpy
  | .incZp _ => .inc
  | .incZpx _ => .inc
  | .incAbs _ => .inc
  | .incAbsx _ => .inc
  | .decZp _ => .dec
  | .decZpx _ => .dec
  | .decAbs _ => .dec
  | .decAbsx _ => .dec
  | .inx => .inx
  | .iny => .iny
  | .dex => .dex
  | .dey => .dey
  | .tax => .tax
  | .txa => .txa
  | .tay => .tay
  | .tya => .tya
  | .txs => .txs
  | .pha => .pha
  | .pla => .pla
  | .php => .php
  | .plp => .plp
  | .sec => .sec
  | .sei => .sei
  | .clc => .clc
  | .cld => .cld
  | .beq _ => .beq
  | .bne _ => .bne
  | .bmi _ => .bmi
  | .bpl _ => .bpl
  | .bcs _ => .bcs
  | .bcc _ => .bcc
  | .bvc _ => .bvc
  | .jmpAbs _ => .jmp
  | .jmpInd _ => .jmp
  | .jsr _ => .jsr
  | .rts => .rts
  | .rti => .rti
  | .brk => .brk

/-- The operand of an instruction (30_encoding R110). -/
def Instr.operand : Instr → Operand
  | .ldaImm d => .immediate d
  | .ldaZp d => .memory (.zp d)
  | .ldaZpx d => .memory (.zpx d)
  | .ldaAbs a => .memory (.abs a)
  | .ldaAbsx a => .memory (.absx a)
  | .ldaAbsy a => .memory (.absy a)
  | .ldaIndx d => .memory (.indx d)
  | .ldaIndy d => .memory (.indy d)
  | .ldxImm d => .immediate d
  | .ldxZp d => .memory (.zp d)
  | .ldxZpy d => .memory (.zpy d)
  | .ldxAbs a => .memory (.abs a)
  | .ldxAbsy a => .memory (.absy a)
  | .ldyImm d => .immediate d
  | .ldyZp d => .memory (.zp d)
  | .ldyZpx d => .memory (.zpx d)
  | .ldyAbs a => .memory (.abs a)
  | .ldyAbsx a => .memory (.absx a)
  | .staZp d => .memory (.zp d)
  | .staZpx d => .memory (.zpx d)
  | .staAbs a => .memory (.abs a)
  | .staAbsx a => .memory (.absx a)
  | .staAbsy a => .memory (.absy a)
  | .staIndx d => .memory (.indx d)
  | .staIndy d => .memory (.indy d)
  | .stxZp d => .memory (.zp d)
  | .stxZpy d => .memory (.zpy d)
  | .stxAbs a => .memory (.abs a)
  | .styZp d => .memory (.zp d)
  | .styZpx d => .memory (.zpx d)
  | .styAbs a => .memory (.abs a)
  | .adcImm d => .immediate d
  | .adcZp d => .memory (.zp d)
  | .adcZpx d => .memory (.zpx d)
  | .adcAbs a => .memory (.abs a)
  | .adcAbsx a => .memory (.absx a)
  | .adcAbsy a => .memory (.absy a)
  | .adcIndx d => .memory (.indx d)
  | .adcIndy d => .memory (.indy d)
  | .sbcImm d => .immediate d
  | .sbcZp d => .memory (.zp d)
  | .sbcZpx d => .memory (.zpx d)
  | .sbcAbs a => .memory (.abs a)
  | .sbcAbsx a => .memory (.absx a)
  | .sbcAbsy a => .memory (.absy a)
  | .sbcIndx d => .memory (.indx d)
  | .sbcIndy d => .memory (.indy d)
  | .andImm d => .immediate d
  | .andZp d => .memory (.zp d)
  | .andZpx d => .memory (.zpx d)
  | .andAbs a => .memory (.abs a)
  | .andAbsx a => .memory (.absx a)
  | .andAbsy a => .memory (.absy a)
  | .andIndx d => .memory (.indx d)
  | .andIndy d => .memory (.indy d)
  | .oraImm d => .immediate d
  | .oraZp d => .memory (.zp d)
  | .oraZpx d => .memory (.zpx d)
  | .oraAbs a => .memory (.abs a)
  | .oraAbsx a => .memory (.absx a)
  | .oraAbsy a => .memory (.absy a)
  | .oraIndx d => .memory (.indx d)
  | .oraIndy d => .memory (.indy d)
  | .eorImm d => .immediate d
  | .eorZp d => .memory (.zp d)
  | .eorZpx d => .memory (.zpx d)
  | .eorAbs a => .memory (.abs a)
  | .eorAbsx a => .memory (.absx a)
  | .eorAbsy a => .memory (.absy a)
  | .eorIndx d => .memory (.indx d)
  | .eorIndy d => .memory (.indy d)
  | .bitZp d => .memory (.zp d)
  | .bitAbs a => .memory (.abs a)
  | .aslAcc => .accumulator
  | .aslZp d => .memory (.zp d)
  | .aslZpx d => .memory (.zpx d)
  | .aslAbs a => .memory (.abs a)
  | .aslAbsx a => .memory (.absx a)
  | .lsrAcc => .accumulator
  | .lsrZp d => .memory (.zp d)
  | .lsrZpx d => .memory (.zpx d)
  | .lsrAbs a => .memory (.abs a)
  | .lsrAbsx a => .memory (.absx a)
  | .rolAcc => .accumulator
  | .rolZp d => .memory (.zp d)
  | .rolZpx d => .memory (.zpx d)
  | .rolAbs a => .memory (.abs a)
  | .rolAbsx a => .memory (.absx a)
  | .rorAcc => .accumulator
  | .rorZp d => .memory (.zp d)
  | .rorZpx d => .memory (.zpx d)
  | .rorAbs a => .memory (.abs a)
  | .rorAbsx a => .memory (.absx a)
  | .cmpImm d => .immediate d
  | .cmpZp d => .memory (.zp d)
  | .cmpZpx d => .memory (.zpx d)
  | .cmpAbs a => .memory (.abs a)
  | .cmpAbsx a => .memory (.absx a)
  | .cmpAbsy a => .memory (.absy a)
  | .cmpIndx d => .memory (.indx d)
  | .cmpIndy d => .memory (.indy d)
  | .cpxImm d => .immediate d
  | .cpxZp d => .memory (.zp d)
  | .cpxAbs a => .memory (.abs a)
  | .cpyImm d => .immediate d
  | .cpyZp d => .memory (.zp d)
  | .cpyAbs a => .memory (.abs a)
  | .incZp d => .memory (.zp d)
  | .incZpx d => .memory (.zpx d)
  | .incAbs a => .memory (.abs a)
  | .incAbsx a => .memory (.absx a)
  | .decZp d => .memory (.zp d)
  | .decZpx d => .memory (.zpx d)
  | .decAbs a => .memory (.abs a)
  | .decAbsx a => .memory (.absx a)
  | .inx => .implied
  | .iny => .implied
  | .dex => .implied
  | .dey => .implied
  | .tax => .implied
  | .txa => .implied
  | .tay => .implied
  | .tya => .implied
  | .txs => .implied
  | .pha => .implied
  | .pla => .implied
  | .php => .implied
  | .plp => .implied
  | .sec => .implied
  | .sei => .implied
  | .clc => .implied
  | .cld => .implied
  | .beq d => .relative d
  | .bne d => .relative d
  | .bmi d => .relative d
  | .bpl d => .relative d
  | .bcs d => .relative d
  | .bcc d => .relative d
  | .bvc d => .relative d
  | .jmpAbs a => .memory (.abs a)
  | .jmpInd a => .memory (.ind a)
  | .jsr a => .memory (.abs a)
  | .rts => .implied
  | .rti => .implied
  | .brk => .implied

/-- The addressing mode of an instruction. -/
def Instr.mode (i : Instr) : Mode := i.operand.mode

/-- The modes each mnemonic has: the filled cells of its line in the table of 30_encoding R110. -/
def Mnemonic.modes : Mnemonic → List Mode
  | .lda | .adc | .sbc | .and | .ora | .eor | .cmp => [.imm, .zp, .zpx, .abs, .absx, .absy, .indx, .indy]
  | .ldx => [.imm, .zp, .zpy, .abs, .absy]
  | .ldy => [.imm, .zp, .zpx, .abs, .absx]
  | .sta => [.zp, .zpx, .abs, .absx, .absy, .indx, .indy]
  | .stx => [.zp, .zpy, .abs]
  | .sty => [.zp, .zpx, .abs]
  | .bit => [.zp, .abs]
  | .asl | .lsr | .rol | .ror => [.acc, .zp, .zpx, .abs, .absx]
  | .cpx | .cpy => [.imm, .zp, .abs]
  | .inc | .dec => [.zp, .zpx, .abs, .absx]
  | .inx | .iny | .dex | .dey | .tax | .txa | .tay | .tya | .txs | .pha | .pla | .php | .plp | .sec | .sei | .clc | .cld | .rts | .rti | .brk => [.imp]
  | .beq | .bne | .bmi | .bpl | .bcs | .bcc | .bvc => [.rel]
  | .jmp => [.abs, .ind]
  | .jsr => [.abs]

/-- The check: the mnemonic has the mode. -/
def Mnemonic.admits (m : Mnemonic) (md : Mode) : Bool := m.modes.contains md

/-- An instruction is well formed when its mnemonic has its mode (30_encoding R110). Every term of Instr is: its
constructor fixes the pair (Laws/PerInstr.lean). -/
def Instr.wellFormed (i : Instr) : Bool := i.mnemonic.admits i.mode

end Sys2Proof
end

