-- ==== Sys2Proof/Decode.lean ====
section
/-!
DEFINITION. Sys2Proof/Decode.lean: the open parameter OPCODE_MAP with its default (00_scope R7, 30_encoding R110, R111,
log entry 1), decoding of bytes under any map, total and rejecting by name, and the encoder of the default map.
-/

namespace Sys2Proof

/-- The word {hi, lo} = hi * 256 + lo (00_scope R8). -/
def wordOf (hi lo : Byte) : Word := BitVec.ofNat 16 (hi.toNat * 256 + lo.toNat)

/-- Bits 7 to 0 of a word. -/
def loByte (w : Word) : Byte := BitVec.ofNat 8 w.toNat

/-- Bits 15 to 8 of a word. -/
def hiByte (w : Word) : Byte := BitVec.ofNat 8 (w.toNat / 256)

/-! ## The opcode map -/

/-- The descriptor table OPCODE_MAP, an open parameter (00_scope R7, D7): for every opcode byte its (mnemonic, mode)
pair, or none. It is laid out as the table of 30_encoding R111, a line by high nibble and a column by low nibble. -/
abbrev OpcodeMap := Vector (Vector (Option (Mnemonic × Mode)) 16) 16

/-- The row of an opcode byte (30_encoding R93). -/
def OpcodeMap.row (m : OpcodeMap) (opc : Byte) : Option (Mnemonic × Mode) :=
  (m[opc.toNat / 16]'(by omega))[opc.toNat % 16]

/-- The default of OPCODE_MAP: the 145 rows of 30_encoding R110, as R111 lays them out (log entry 1); the 111 bytes of
R113 have none. -/
def OpcodeMap.standard : OpcodeMap := #v[
  #v[ -- 0x00
    some (.brk, .imp), some (.ora, .indx), none, none,
    none, some (.ora, .zp), some (.asl, .zp), none,
    some (.php, .imp), some (.ora, .imm), some (.asl, .acc), none,
    none, some (.ora, .abs), some (.asl, .abs), none],
  #v[ -- 0x10
    some (.bpl, .rel), some (.ora, .indy), none, none,
    none, some (.ora, .zpx), some (.asl, .zpx), none,
    some (.clc, .imp), some (.ora, .absy), none, none,
    none, some (.ora, .absx), some (.asl, .absx), none],
  #v[ -- 0x20
    some (.jsr, .abs), some (.and, .indx), none, none,
    some (.bit, .zp), some (.and, .zp), some (.rol, .zp), none,
    some (.plp, .imp), some (.and, .imm), some (.rol, .acc), none,
    some (.bit, .abs), some (.and, .abs), some (.rol, .abs), none],
  #v[ -- 0x30
    some (.bmi, .rel), some (.and, .indy), none, none,
    none, some (.and, .zpx), some (.rol, .zpx), none,
    some (.sec, .imp), some (.and, .absy), none, none,
    none, some (.and, .absx), some (.rol, .absx), none],
  #v[ -- 0x40
    some (.rti, .imp), some (.eor, .indx), none, none,
    none, some (.eor, .zp), some (.lsr, .zp), none,
    some (.pha, .imp), some (.eor, .imm), some (.lsr, .acc), none,
    some (.jmp, .abs), some (.eor, .abs), some (.lsr, .abs), none],
  #v[ -- 0x50
    some (.bvc, .rel), some (.eor, .indy), none, none,
    none, some (.eor, .zpx), some (.lsr, .zpx), none,
    none, some (.eor, .absy), none, none,
    none, some (.eor, .absx), some (.lsr, .absx), none],
  #v[ -- 0x60
    some (.rts, .imp), some (.adc, .indx), none, none,
    none, some (.adc, .zp), some (.ror, .zp), none,
    some (.pla, .imp), some (.adc, .imm), some (.ror, .acc), none,
    some (.jmp, .ind), some (.adc, .abs), some (.ror, .abs), none],
  #v[ -- 0x70
    none, some (.adc, .indy), none, none,
    none, some (.adc, .zpx), some (.ror, .zpx), none,
    some (.sei, .imp), some (.adc, .absy), none, none,
    none, some (.adc, .absx), some (.ror, .absx), none],
  #v[ -- 0x80
    none, some (.sta, .indx), none, none,
    some (.sty, .zp), some (.sta, .zp), some (.stx, .zp), none,
    some (.dey, .imp), none, some (.txa, .imp), none,
    some (.sty, .abs), some (.sta, .abs), some (.stx, .abs), none],
  #v[ -- 0x90
    some (.bcc, .rel), some (.sta, .indy), none, none,
    some (.sty, .zpx), some (.sta, .zpx), some (.stx, .zpy), none,
    some (.tya, .imp), some (.sta, .absy), some (.txs, .imp), none,
    none, some (.sta, .absx), none, none],
  #v[ -- 0xA0
    some (.ldy, .imm), some (.lda, .indx), some (.ldx, .imm), none,
    some (.ldy, .zp), some (.lda, .zp), some (.ldx, .zp), none,
    some (.tay, .imp), some (.lda, .imm), some (.tax, .imp), none,
    some (.ldy, .abs), some (.lda, .abs), some (.ldx, .abs), none],
  #v[ -- 0xB0
    some (.bcs, .rel), some (.lda, .indy), none, none,
    some (.ldy, .zpx), some (.lda, .zpx), some (.ldx, .zpy), none,
    none, some (.lda, .absy), none, none,
    some (.ldy, .absx), some (.lda, .absx), some (.ldx, .absy), none],
  #v[ -- 0xC0
    some (.cpy, .imm), some (.cmp, .indx), none, none,
    some (.cpy, .zp), some (.cmp, .zp), some (.dec, .zp), none,
    some (.iny, .imp), some (.cmp, .imm), some (.dex, .imp), none,
    some (.cpy, .abs), some (.cmp, .abs), some (.dec, .abs), none],
  #v[ -- 0xD0
    some (.bne, .rel), some (.cmp, .indy), none, none,
    none, some (.cmp, .zpx), some (.dec, .zpx), none,
    some (.cld, .imp), some (.cmp, .absy), none, none,
    none, some (.cmp, .absx), some (.dec, .absx), none],
  #v[ -- 0xE0
    some (.cpx, .imm), some (.sbc, .indx), none, none,
    some (.cpx, .zp), some (.sbc, .zp), some (.inc, .zp), none,
    some (.inx, .imp), some (.sbc, .imm), none, none,
    some (.cpx, .abs), some (.sbc, .abs), some (.inc, .abs), none],
  #v[ -- 0xF0
    some (.beq, .rel), some (.sbc, .indy), none, none,
    none, some (.sbc, .zpx), some (.inc, .zpx), none,
    none, some (.sbc, .absy), none, none,
    none, some (.sbc, .absx), some (.inc, .absx), none]]

/-- How an instruction is made by its format (30_encoding R90): the instruction itself (F1), the instruction given its
operand byte (F2), or given its operand word (F3). -/
inductive Form where
  | f1 (i : Instr)
  | f2 (build : Byte → Instr)
  | f3 (build : Word → Instr)

/-- How many operand bytes a form has (30_encoding R91). -/
def Form.operandBytes : Form → Nat
  | .f1 _ => 0
  | .f2 _ => 1
  | .f3 _ => 2

/-- The (mnemonic, mode) pair of a form (30_encoding R93); neither depends on the operand. -/
def Form.row : Form → Mnemonic × Mode
  | .f1 i => (i.mnemonic, i.mode)
  | .f2 k => ((k 0).mnemonic, (k 0).mode)
  | .f3 k => ((k 0).mnemonic, (k 0).mode)

/-- The forms of a mnemonic, one for each mode that 30_encoding R110 gives it. -/
def Mnemonic.forms : Mnemonic → List Form
  | .lda => [
      .f2 .ldaImm, .f2 .ldaZp, .f2 .ldaZpx, .f3 .ldaAbs,
      .f3 .ldaAbsx, .f3 .ldaAbsy, .f2 .ldaIndx, .f2 .ldaIndy]
  | .ldx => [.f2 .ldxImm, .f2 .ldxZp, .f2 .ldxZpy, .f3 .ldxAbs, .f3 .ldxAbsy]
  | .ldy => [.f2 .ldyImm, .f2 .ldyZp, .f2 .ldyZpx, .f3 .ldyAbs, .f3 .ldyAbsx]
  | .sta => [.f2 .staZp, .f2 .staZpx, .f3 .staAbs, .f3 .staAbsx, .f3 .staAbsy, .f2 .staIndx, .f2 .staIndy]
  | .stx => [.f2 .stxZp, .f2 .stxZpy, .f3 .stxAbs]
  | .sty => [.f2 .styZp, .f2 .styZpx, .f3 .styAbs]
  | .adc => [
      .f2 .adcImm, .f2 .adcZp, .f2 .adcZpx, .f3 .adcAbs,
      .f3 .adcAbsx, .f3 .adcAbsy, .f2 .adcIndx, .f2 .adcIndy]
  | .sbc => [
      .f2 .sbcImm, .f2 .sbcZp, .f2 .sbcZpx, .f3 .sbcAbs,
      .f3 .sbcAbsx, .f3 .sbcAbsy, .f2 .sbcIndx, .f2 .sbcIndy]
  | .and => [
      .f2 .andImm, .f2 .andZp, .f2 .andZpx, .f3 .andAbs,
      .f3 .andAbsx, .f3 .andAbsy, .f2 .andIndx, .f2 .andIndy]
  | .ora => [
      .f2 .oraImm, .f2 .oraZp, .f2 .oraZpx, .f3 .oraAbs,
      .f3 .oraAbsx, .f3 .oraAbsy, .f2 .oraIndx, .f2 .oraIndy]
  | .eor => [
      .f2 .eorImm, .f2 .eorZp, .f2 .eorZpx, .f3 .eorAbs,
      .f3 .eorAbsx, .f3 .eorAbsy, .f2 .eorIndx, .f2 .eorIndy]
  | .bit => [.f2 .bitZp, .f3 .bitAbs]
  | .asl => [.f1 .aslAcc, .f2 .aslZp, .f2 .aslZpx, .f3 .aslAbs, .f3 .aslAbsx]
  | .lsr => [.f1 .lsrAcc, .f2 .lsrZp, .f2 .lsrZpx, .f3 .lsrAbs, .f3 .lsrAbsx]
  | .rol => [.f1 .rolAcc, .f2 .rolZp, .f2 .rolZpx, .f3 .rolAbs, .f3 .rolAbsx]
  | .ror => [.f1 .rorAcc, .f2 .rorZp, .f2 .rorZpx, .f3 .rorAbs, .f3 .rorAbsx]
  | .cmp => [
      .f2 .cmpImm, .f2 .cmpZp, .f2 .cmpZpx, .f3 .cmpAbs,
      .f3 .cmpAbsx, .f3 .cmpAbsy, .f2 .cmpIndx, .f2 .cmpIndy]
  | .cpx => [.f2 .cpxImm, .f2 .cpxZp, .f3 .cpxAbs]
  | .cpy => [.f2 .cpyImm, .f2 .cpyZp, .f3 .cpyAbs]
  | .inc => [.f2 .incZp, .f2 .incZpx, .f3 .incAbs, .f3 .incAbsx]
  | .dec => [.f2 .decZp, .f2 .decZpx, .f3 .decAbs, .f3 .decAbsx]
  | .inx => [.f1 .inx]
  | .iny => [.f1 .iny]
  | .dex => [.f1 .dex]
  | .dey => [.f1 .dey]
  | .tax => [.f1 .tax]
  | .txa => [.f1 .txa]
  | .tay => [.f1 .tay]
  | .tya => [.f1 .tya]
  | .txs => [.f1 .txs]
  | .pha => [.f1 .pha]
  | .pla => [.f1 .pla]
  | .php => [.f1 .php]
  | .plp => [.f1 .plp]
  | .sec => [.f1 .sec]
  | .sei => [.f1 .sei]
  | .clc => [.f1 .clc]
  | .cld => [.f1 .cld]
  | .beq => [.f2 .beq]
  | .bne => [.f2 .bne]
  | .bmi => [.f2 .bmi]
  | .bpl => [.f2 .bpl]
  | .bcs => [.f2 .bcs]
  | .bcc => [.f2 .bcc]
  | .bvc => [.f2 .bvc]
  | .jmp => [.f3 .jmpAbs, .f3 .jmpInd]
  | .jsr => [.f3 .jsr]
  | .rts => [.f1 .rts]
  | .rti => [.f1 .rti]
  | .brk => [.f1 .brk]

/-- The form of a (mnemonic, mode) pair; `none` for a pair outside the table of R110. -/
def formOf (mn : Mnemonic) (md : Mode) : Option Form := mn.forms.find? fun f => decide (f.row.2 = md)

/-- Why an opcode byte makes no `Instr` under a map. -/
inductive RowError where
  /-- The byte has no row in the map (30_encoding R113). -/
  | illegalOpcode (opc : Byte)
  /-- Its row is a pair outside the table of R110, whose rows are the constructors of `Instr`; the default map has no
  such row, and a step gives it the meaning Machine/Rules.lean says (log entry 19). -/
  | offTable (mn : Mnemonic) (md : Mode)
  deriving DecidableEq, Repr

/-- The form of an opcode byte under a map. -/
def OpcodeMap.form (m : OpcodeMap) (opc : Byte) : Except RowError Form :=
  match m.row opc with
  | none => .error (.illegalOpcode opc)
  | some (mn, md) =>
    match formOf mn md with
    | none => .error (.offTable mn md)
    | some f => .ok f

/-! ## Decoding -/

/-- Why bytes are no instruction. -/
inductive DecodeError where
  /-- There is no byte to read. -/
  | noOpcode
  /-- The opcode byte makes no `Instr`. -/
  | noRow (e : RowError)
  /-- The opcode is legal and its operand bytes are not all there. -/
  | operandMissing (opc : Byte)
  deriving DecidableEq, Repr

/-- The instruction at the head of a list of bytes under a map, and the bytes after it (30_encoding R90 to R93,
little-endian operand words 20_memory R77). -/
def decodeWith (m : OpcodeMap) : List Byte → Except DecodeError (Instr × List Byte)
  | [] => .error .noOpcode
  | opc :: rest =>
    match m.form opc with
    | .error e => .error (.noRow e)
    | .ok (.f1 i) => .ok (i, rest)
    | .ok (.f2 k) =>
      match rest with
      | d :: rest => .ok (k d, rest)
      | [] => .error (.operandMissing opc)
    | .ok (.f3 k) =>
      match rest with
      | lo :: hi :: rest => .ok (k (wordOf hi lo), rest)
      | _ => .error (.operandMissing opc)

/-- Decoding under the default map. -/
def decode (bytes : List Byte) : Except DecodeError (Instr × List Byte) := decodeWith OpcodeMap.standard bytes

/-! ## Encoding under the default map -/

/-- The opcode byte of an instruction (30_encoding R110). -/
def Instr.opcode : Instr → Byte
  | .ldaImm _ => 0xA9
  | .ldaZp _ => 0xA5
  | .ldaZpx _ => 0xB5
  | .ldaAbs _ => 0xAD
  | .ldaAbsx _ => 0xBD
  | .ldaAbsy _ => 0xB9
  | .ldaIndx _ => 0xA1
  | .ldaIndy _ => 0xB1
  | .ldxImm _ => 0xA2
  | .ldxZp _ => 0xA6
  | .ldxZpy _ => 0xB6
  | .ldxAbs _ => 0xAE
  | .ldxAbsy _ => 0xBE
  | .ldyImm _ => 0xA0
  | .ldyZp _ => 0xA4
  | .ldyZpx _ => 0xB4
  | .ldyAbs _ => 0xAC
  | .ldyAbsx _ => 0xBC
  | .staZp _ => 0x85
  | .staZpx _ => 0x95
  | .staAbs _ => 0x8D
  | .staAbsx _ => 0x9D
  | .staAbsy _ => 0x99
  | .staIndx _ => 0x81
  | .staIndy _ => 0x91
  | .stxZp _ => 0x86
  | .stxZpy _ => 0x96
  | .stxAbs _ => 0x8E
  | .styZp _ => 0x84
  | .styZpx _ => 0x94
  | .styAbs _ => 0x8C
  | .adcImm _ => 0x69
  | .adcZp _ => 0x65
  | .adcZpx _ => 0x75
  | .adcAbs _ => 0x6D
  | .adcAbsx _ => 0x7D
  | .adcAbsy _ => 0x79
  | .adcIndx _ => 0x61
  | .adcIndy _ => 0x71
  | .sbcImm _ => 0xE9
  | .sbcZp _ => 0xE5
  | .sbcZpx _ => 0xF5
  | .sbcAbs _ => 0xED
  | .sbcAbsx _ => 0xFD
  | .sbcAbsy _ => 0xF9
  | .sbcIndx _ => 0xE1
  | .sbcIndy _ => 0xF1
  | .andImm _ => 0x29
  | .andZp _ => 0x25
  | .andZpx _ => 0x35
  | .andAbs _ => 0x2D
  | .andAbsx _ => 0x3D
  | .andAbsy _ => 0x39
  | .andIndx _ => 0x21
  | .andIndy _ => 0x31
  | .oraImm _ => 0x09
  | .oraZp _ => 0x05
  | .oraZpx _ => 0x15
  | .oraAbs _ => 0x0D
  | .oraAbsx _ => 0x1D
  | .oraAbsy _ => 0x19
  | .oraIndx _ => 0x01
  | .oraIndy _ => 0x11
  | .eorImm _ => 0x49
  | .eorZp _ => 0x45
  | .eorZpx _ => 0x55
  | .eorAbs _ => 0x4D
  | .eorAbsx _ => 0x5D
  | .eorAbsy _ => 0x59
  | .eorIndx _ => 0x41
  | .eorIndy _ => 0x51
  | .bitZp _ => 0x24
  | .bitAbs _ => 0x2C
  | .aslAcc => 0x0A
  | .aslZp _ => 0x06
  | .aslZpx _ => 0x16
  | .aslAbs _ => 0x0E
  | .aslAbsx _ => 0x1E
  | .lsrAcc => 0x4A
  | .lsrZp _ => 0x46
  | .lsrZpx _ => 0x56
  | .lsrAbs _ => 0x4E
  | .lsrAbsx _ => 0x5E
  | .rolAcc => 0x2A
  | .rolZp _ => 0x26
  | .rolZpx _ => 0x36
  | .rolAbs _ => 0x2E
  | .rolAbsx _ => 0x3E
  | .rorAcc => 0x6A
  | .rorZp _ => 0x66
  | .rorZpx _ => 0x76
  | .rorAbs _ => 0x6E
  | .rorAbsx _ => 0x7E
  | .cmpImm _ => 0xC9
  | .cmpZp _ => 0xC5
  | .cmpZpx _ => 0xD5
  | .cmpAbs _ => 0xCD
  | .cmpAbsx _ => 0xDD
  | .cmpAbsy _ => 0xD9
  | .cmpIndx _ => 0xC1
  | .cmpIndy _ => 0xD1
  | .cpxImm _ => 0xE0
  | .cpxZp _ => 0xE4
  | .cpxAbs _ => 0xEC
  | .cpyImm _ => 0xC0
  | .cpyZp _ => 0xC4
  | .cpyAbs _ => 0xCC
  | .incZp _ => 0xE6
  | .incZpx _ => 0xF6
  | .incAbs _ => 0xEE
  | .incAbsx _ => 0xFE
  | .decZp _ => 0xC6
  | .decZpx _ => 0xD6
  | .decAbs _ => 0xCE
  | .decAbsx _ => 0xDE
  | .inx => 0xE8
  | .iny => 0xC8
  | .dex => 0xCA
  | .dey => 0x88
  | .tax => 0xAA
  | .txa => 0x8A
  | .tay => 0xA8
  | .tya => 0x98
  | .txs => 0x9A
  | .pha => 0x48
  | .pla => 0x68
  | .php => 0x08
  | .plp => 0x28
  | .sec => 0x38
  | .sei => 0x78
  | .clc => 0x18
  | .cld => 0xD8
  | .beq _ => 0xF0
  | .bne _ => 0xD0
  | .bmi _ => 0x30
  | .bpl _ => 0x10
  | .bcs _ => 0xB0
  | .bcc _ => 0x90
  | .bvc _ => 0x50
  | .jmpAbs _ => 0x4C
  | .jmpInd _ => 0x6C
  | .jsr _ => 0x20
  | .rts => 0x60
  | .rti => 0x40
  | .brk => 0x00

/-- The operand bytes of a place, in address order. -/
def Place.bytes : Place → List Byte
  | .zp d | .zpx d | .zpy d | .indx d | .indy d => [d]
  | .abs a | .absx a | .absy a | .ind a => [loByte a, hiByte a]

/-- The operand bytes of an operand, in address order (30_encoding R90). -/
def Operand.bytes : Operand → List Byte
  | .implied | .accumulator => []
  | .immediate d | .relative d => [d]
  | .memory p => p.bytes

/-- The bytes of an instruction, in address order (30_encoding R90, R110). -/
def encode (i : Instr) : List Byte := i.opcode :: i.operand.bytes

/-- The length of an instruction in bytes (30_encoding R91). -/
def Instr.length (i : Instr) : Nat := 1 + i.mode.operandBytes

/-- Byte `k` of a number, its first byte lowest. -/
def byteAt (w k : Nat) : Byte := BitVec.ofNat 8 (w / 256 ^ k)

/-- The three bytes of an instruction word as spec/opcode_table.json numbers its bits: the first byte least
significant, and every bit from `nbits` up zero. -/
def tableBytes (nbits w : Nat) : List Byte :=
  let v := w % 2 ^ nbits
  [byteAt v 0, byteAt v 1, byteAt v 2]

/-- What the decoder reads from an instruction word of the table. -/
def decodeTableWord (nbits w : Nat) : Option Instr :=
  match decode (tableBytes nbits w) with
  | .ok (i, _) => some i
  | .error _ => none

end Sys2Proof
end

