-- ==== Sys2Proof/Machine/Flags.lean ====
section
/-!
DEFINITION. Sys2Proof/Machine/Flags.lean: the bits of the status byte P (10_state R27 to R29) and every flag
computation of the instruction rules, each on plain bytes.
-/

namespace Sys2Proof.Machine

/-- The six semantic flags of `P` (10_state R27). -/
inductive Flag where
  | c | z | i | d | v | n
  deriving DecidableEq, Repr

/-- The bit of `P` that holds a flag (10_state R27). -/
def Flag.bit : Flag → Nat
  | .c => 0
  | .z => 1
  | .i => 2
  | .d => 3
  | .v => 6
  | .n => 7

/-- The value of flag `f` in status byte `p`. -/
def getFlag (f : Flag) (p : Byte) : Bool := p.getLsbD f.bit

/-- Status byte `p` with bit `k` set to `b` and every other bit as it was. -/
def putBit (k : Nat) (b : Bool) (p : Byte) : Byte :=
  if b then p ||| (1#8 <<< k) else p &&& ~~~(1#8 <<< k)

/-- Status byte `p` with flag `f` set to `b` and every other bit as it was (10_state R9, R29). -/
def putFlag (f : Flag) (b : Bool) (p : Byte) : Byte := putBit f.bit b p

/-- The reserved bits `P[4]` and `P[5]` forced to 1: `P | 0x30` (47_stack_ops R202, 49_control_transfer R235). -/
def forceReserved (p : Byte) : Byte := p ||| 0x30

/-- `P.Z` from a result byte. -/
def setZ (v : Byte) (p : Byte) : Byte := putFlag .z (v == 0) p

/-- `P.N` from a result byte. -/
def setN (v : Byte) (p : Byte) : Byte := putFlag .n v.msb p

/-- `SetZN(v)` (10_state R28). -/
def setZN (v : Byte) (p : Byte) : Byte := setN v (setZ v p)

/-- `OverflowBit(M, res)` (41_arithmetic R142). -/
def overflowBit (m res : Byte) : Bool := !m.msb && res.msb

/-- The 9-bit sum of ADC (41_arithmetic R141). -/
def adcSum (m acc : Byte) (c : Bool) : Nat := m.toNat + acc.toNat + c.toNat

/-- The result byte of ADC. -/
def adcResult (m acc : Byte) (c : Bool) : Byte := BitVec.ofNat 8 (adcSum m acc c)

/-- The status byte after ADC (41_arithmetic R141). -/
def adcFlags (m acc : Byte) (p : Byte) : Byte :=
  let c := getFlag .c p
  let res := adcResult m acc c
  setZN res (putFlag .v (overflowBit m res) (putFlag .c (decide (adcSum m acc c > 255)) p))

/-- `raw` of SBC: the accumulator less the borrow in, less the operand, an integer (41_arithmetic R143). -/
def sbcRaw (m acc : Byte) (c : Bool) : Int := (acc.toNat : Int) - (1 - (c.toNat : Int)) - (m.toNat : Int)

/-- The result byte of SBC. -/
def sbcResult (m acc : Byte) (c : Bool) : Byte := BitVec.ofInt 8 (sbcRaw m acc c)

/-- The status byte after SBC (41_arithmetic R143). -/
def sbcFlags (m acc : Byte) (p : Byte) : Byte :=
  let c := getFlag .c p
  let res := sbcResult m acc c
  setZN res (putFlag .v (overflowBit m res) (putFlag .c (!decide (sbcRaw m acc c < 0)) p))

/-- The status byte after BIT (42_logic R153). -/
def bitFlags (m acc : Byte) (p : Byte) : Byte :=
  putFlag .v (m.getLsbD 6) (putFlag .n (m.getLsbD 7) (putFlag .z (acc &&& m == 0) p))

/-- The status byte after `Compare(reg, M)` (44_compares R170). -/
def compareFlags (reg m : Byte) (p : Byte) : Byte :=
  putFlag .n (decide (reg.toNat < m.toNat)) (putFlag .z (reg == m) (putFlag .c (decide (m.toNat ≤ reg.toNat)) p))

/-- The result of ASL (43_shifts R162, R163). -/
def aslResult (old : Byte) : Byte := BitVec.ofNat 8 (old.toNat * 2)

/-- The result of LSR (43_shifts R164, R165). -/
def lsrResult (old : Byte) : Byte := BitVec.ofNat 8 (old.toNat / 2)

/-- The result of ROL: the old carry `c` enters bit 0 (43_shifts R166, R167). -/
def rolResult (c : Bool) (old : Byte) : Byte := BitVec.ofNat 8 (old.toNat * 2 % 256 + c.toNat)

/-- The result of ROR: the old carry `c` enters bit 7 (43_shifts R168, R169). -/
def rorResult (c : Bool) (old : Byte) : Byte := BitVec.ofNat 8 (old.toNat / 2 + c.toNat * 128)

/-- The status byte after ASL of `old`: C and Z only (43_shifts R160). -/
def aslFlags (old : Byte) (p : Byte) : Byte := setZ (aslResult old) (putFlag .c (old.getLsbD 7) p)

/-- The status byte after LSR of `old`: C and Z only (43_shifts R160). -/
def lsrFlags (old : Byte) (p : Byte) : Byte := setZ (lsrResult old) (putFlag .c (old.getLsbD 0) p)

/-- The status byte after ROL of `old`: C and N only (43_shifts R160). -/
def rolFlags (old : Byte) (p : Byte) : Byte :=
  setN (rolResult (getFlag .c p) old) (putFlag .c (old.getLsbD 7) p)

/-- The status byte after ROR of `old`: C and N only (43_shifts R160). -/
def rorFlags (old : Byte) (p : Byte) : Byte :=
  setN (rorResult (getFlag .c p) old) (putFlag .c (old.getLsbD 0) p)

end Sys2Proof.Machine
end

