-- ==== Sys2Proof/Machine/State.lean ====
section
/-!
DEFINITION. Sys2Proof/Machine/State.lean: everything the block holds (10_state), as plain data, with its outputs and
the driver, the reasons a step can stop, one setter per field, and the state after reset.
-/

namespace Sys2Proof.Machine

/-- RAM and ROM as one list of (key, byte) cells in canonical form: keys strictly rising, no byte equal to what an
unlisted cell reads as (Machine/Ops.lean: Memory.wf, Memory.unlisted). -/
abbrev Memory := List Host.Cell

/-- What leaves the block on its peripheral ports and logs (10_state R41; 20_memory R60 to R75; 60_exceptions R241).
A read port's record carries the byte the peripheral answered. -/
inductive Event where
  | gfxWriteControl (v : Byte)
  | gfxWriteMask (v : Byte)
  | gfxReadStatus (answer : Byte)
  | gfxWriteOamAddr (v : Byte)
  | gfxWriteScroll (v : Byte)
  | gfxWriteAddr (v : Byte)
  | gfxReadData (answer : Byte)
  | gfxWriteData (v : Byte)
  /-- One call with 256 bytes in order (20_memory R68). -/
  | gfxOamDma (bytes : List Byte)
  | sndChannelWrite (i : Nat) (v : Byte)
  | sndStatusRead (answer : Byte)
  | sndStatusWrite (v : Byte)
  | sndFrameCounterWrite (v : Byte)
  | inputRead (answer : Byte)
  | inputWrite (v : Byte)
  /-- A soft-failure read, logged (20_memory R74, R75). -/
  | softRead (addr : Word)
  /-- A soft-failure write, logged (20_memory R74, R75). -/
  | softWrite (addr : Word) (v : Byte)
  /-- The fault log: the offending opcode and the address it was fetched from (60_exceptions R241). -/
  | faultRaised (opc : Byte) (addr : Word)
  deriving DecidableEq, Repr

/-- What the resolver hands the mnemonic (30_encoding R94). -/
inductive Resolved where
  | nothing
  | value (m : Byte)
  | address (ea : Word)
  | displacement (d : Byte)
  deriving DecidableEq, Repr

/-- One record of the execution trace (10_state R40). -/
structure TraceRecord where
  address : Word
  mnemonic : Mnemonic
  mode : Mode
  operand : Resolved
  deriving DecidableEq, Repr

/-- What the driver does when the agenda is empty (70_reset_and_hazards R285, R291; log entry 7). -/
inductive Driver where
  /-- It asks for a `step`, forever. -/
  | steps
  /-- It takes its requests from the free schedule `Config.driverRequest`, number `n` next: any endless schedule. -/
  | free (n : Nat)
  deriving DecidableEq, Repr

/-- No step of this hardware ends in a fault of the model: every bus access is total (20_memory R50, R51), every
register holds a value (10_state R26), and the hardware's own Fault is a latch of the state, set in a NEXT state
(60_exceptions R240). So there is no constructor (log entry 16). -/
inductive Fault where
  deriving DecidableEq, Repr

/-- Why a request has no meaning in the model. -/
inductive Refusal where
  /-- Raised by no arm today: the name under which exec rejects an instruction that has no meaning yet; safe. -/
  | notModelled (mnemonic : String)
  /-- Raised by a write of `page` to 0x4014 when `page` is 0x20 or more: "the behaviour is unspecified and a model
  should refuse it" (20_memory R69, 93_implementation_defined U4); safe (log entry 9). -/
  | oamDmaSourceNotRam (page : Byte)
  /-- Raised by the request `pc_load` after the first step: "a model should give it no move then" (10_state R38);
  safe (log entry 12). -/
  | pcLoadAfterFirstStep
  /-- Raised by the request `rom_load` after the first step: "The loader acts before the first `step`; after that the
  content is fixed" (10_state R43); safe (log entry 12). -/
  | romLoadAfterFirstStep
  deriving DecidableEq, Repr

/-- The state of the block between two requests (10_state R45), with its outputs and the coming requests. -/
structure State where
  /-- The accumulator `A` (R21). -/
  a : Byte
  /-- Index register `X` (R22). -/
  x : Byte
  /-- Index register `Y` (R23). -/
  y : Byte
  /-- The stack pointer `SP`; it names the address 0x0100 + SP (R24). -/
  sp : Byte
  /-- The status byte `P`, all eight bits of it state (R27); its flags are named in Machine/Flags.lean. -/
  p : Byte
  /-- The program counter `PC` (R25). -/
  pc : Word
  /-- The `Fault` latch: true exactly in engine state Faulted (R30). -/
  faulted : Bool
  /-- RAM and ROM (R42, R43), each byte once: RAM[k] under key k, the ROM byte at bus address n under key n. -/
  mem : Memory
  /-- The level `irq_pending` as the next step will sample it (R36): the sound peripheral's, an input (log entry 6). -/
  irqPending : Bool
  /-- OUTPUT. The port calls, the soft-failure log and the fault log, newest first (log entry 10). -/
  events : List Event
  /-- OUTPUT. The execution trace of R40, newest first (log entry 11). -/
  trace : List TraceRecord
  /-- THE MODEL'S OWN. How many free bytes have been taken; it picks the next one (log entries 5, 19). -/
  draws : Nat
  /-- THE MODEL'S OWN. Whether a `step` has been requested since reset, after which the boot ports have no move (log entry 12). -/
  started : Bool
  /-- THE MODEL'S OWN. The requests to be served next, oldest first (log entry 7). -/
  agenda : List Request
  /-- THE MODEL'S OWN. What the driver does when `agenda` is empty (log entry 7). -/
  driver : Driver
  /-- The open parameter OPCODE_MAP, fixed for the life of the engine: no move writes it (00_scope R7, log entry 1). -/
  opcodeMap : OpcodeMap
  deriving DecidableEq, Repr

/-- Writes field `a`. -/
def State.setA (s : State) (v : Byte) : State := { s with a := v }

/-- Writes field `x`. -/
def State.setX (s : State) (v : Byte) : State := { s with x := v }

/-- Writes field `y`. -/
def State.setY (s : State) (v : Byte) : State := { s with y := v }

/-- Writes field `sp`. -/
def State.setSp (s : State) (v : Byte) : State := { s with sp := v }

/-- Writes field `p`. -/
def State.setP (s : State) (v : Byte) : State := { s with p := v }

/-- Writes field `pc`. -/
def State.setPc (s : State) (v : Word) : State := { s with pc := v }

/-- Writes field `faulted`. -/
def State.setFaulted (s : State) (v : Bool) : State := { s with faulted := v }

/-- Writes field `mem`. -/
def State.setMem (s : State) (v : Memory) : State := { s with mem := v }

/-- Writes field `irqPending`. -/
def State.setIrqPending (s : State) (v : Bool) : State := { s with irqPending := v }

/-- Writes field `events`. -/
def State.setEvents (s : State) (v : List Event) : State := { s with events := v }

/-- Writes field `trace`. -/
def State.setTrace (s : State) (v : List TraceRecord) : State := { s with trace := v }

/-- Writes field `draws`. -/
def State.setDraws (s : State) (v : Nat) : State := { s with draws := v }

/-- Writes field `started`. -/
def State.setStarted (s : State) (v : Bool) : State := { s with started := v }

/-- Writes field `agenda`. -/
def State.setAgenda (s : State) (v : List Request) : State := { s with agenda := v }

/-- Writes field `driver`. -/
def State.setDriver (s : State) (v : Driver) : State := { s with driver := v }

/-- The machine right after reset (10_state R46): `Fault` is 0. DESIGN CHOICE, not safe (log entries 1 to 4, 6, 7): every
open parameter without a default is 0x00, OPCODE_MAP is its default, the ROM holds nothing, `PC` is the word its reset
vector then holds, the IRQ level is false, and the driver only steps. -/
def State.reset : State where
  a := 0x00
  x := 0x00
  y := 0x00
  sp := 0x00
  p := 0x00
  pc := 0x0000
  faulted := false
  mem := []
  irqPending := false
  events := []
  trace := []
  draws := 0
  started := false
  agenda := []
  driver := .steps
  opcodeMap := OpcodeMap.standard

end Sys2Proof.Machine
end

