-- ==== Sys2Proof/Machine/Ops.lean ====
section
/-!
DEFINITION. Sys2Proof/Machine/Ops.lean: the named operations on memory, on the bus (20_memory), on the stack
(10_state R31, R32), taking an interrupt and returning from one (60_exceptions R246, 49_control_transfer R233).
-/

namespace Sys2Proof.Machine

/-! ## RAM and ROM as cells -/

/-- What an unlisted cell reads as. DESIGN CHOICE, not safe (log entry 3): RAM_INIT and a ROM byte the loader did not
supply are open. -/
def Memory.unlisted : Byte := 0x00

/-- The byte of the cell with key `k`. -/
def Memory.read : Memory → Nat → Byte
  | [], _ => Memory.unlisted
  | (j, b) :: rest, k => if j = k then b else Memory.read rest k

/-- The memory with byte `v` in the cell with key `k`, in canonical form again. -/
def Memory.write : Memory → Nat → Byte → Memory
  | [], k, v => if v = Memory.unlisted then [] else [(k, v)]
  | (j, b) :: rest, k, v =>
    if k < j then
      if v = Memory.unlisted then (j, b) :: rest else (k, v) :: (j, b) :: rest
    else if k = j then
      if v = Memory.unlisted then rest else (k, v) :: rest
    else (j, b) :: Memory.write rest k v

/-- The cells of consecutive bytes from key `k` on, in canonical form. -/
def Memory.cellsFrom : Nat → List Byte → Memory
  | _, [] => []
  | k, b :: rest =>
    if b = Memory.unlisted then Memory.cellsFrom (k + 1) rest else (k, b) :: Memory.cellsFrom (k + 1) rest

/-- Every key of `m` is at least `k`. -/
def Memory.above (k : Nat) (m : Memory) : Bool := m.all fun cell => decide (k ≤ cell.1)

/-- The canonical form: keys strictly rising, no entry equal to what an unlisted cell reads as. -/
def Memory.wf : Memory → Bool
  | [] => true
  | (k, b) :: rest => decide (b ≠ Memory.unlisted) && Memory.above (k + 1) rest && Memory.wf rest

/-- A key that backs a byte of the machine: an index into the 2 KiB of RAM or a bus address of ROM (10_state R42,
R43). -/
def backedKey (k : Nat) : Bool := decide (k < 0x800) || (decide (0x8000 ≤ k) && decide (k < 0x10000))

/-- Every cell backs a byte of RAM or of ROM. -/
def Memory.backed (m : Memory) : Bool := m.all fun cell => backedKey cell.1

/-- The cells of RAM. -/
def Memory.ramPart (m : Memory) : Memory := m.filter fun cell => decide (cell.1 < 0x800)

/-- The cells of ROM. -/
def Memory.romPart (m : Memory) : Memory := m.filter fun cell => decide (0x8000 ≤ cell.1)

/-- The cell that holds the byte at a bus address, where it is RAM (mirrored every 0x0800, 20_memory R56) or ROM
(R57); `none` in the peripheral windows and where nothing is mapped. -/
def cellOf (addr : Word) : Option Nat :=
  let n := addr.toNat
  if n < 0x2000 then some (n % 0x800) else if n < 0x8000 then none else some n

/-- The byte of RAM or ROM at a bus address, looked at from outside: no bus access. Where no memory is, 0x00. -/
def peek (s : State) (addr : Word) : Byte :=
  match cellOf addr with
  | some k => s.mem.read k
  | none => 0x00

/-! ## Outputs and answers -/

/-- Records one event. -/
def emit (e : Event) (s : State) : State := s.setEvents (e :: s.events)

/-- Takes the next free byte. -/
def drawByte (s : State) : Byte × State := (Config.freeByte s.draws, s.setDraws (s.draws + 1))

/-- One call of a peripheral read port: the answer is the next free byte (20_memory R72, log entry 5). -/
def portRead (call : Byte → Event) (s : State) : Byte × State :=
  let (b, s) := drawByte s
  (b, emit (call b) s)

/-- `SoftRead(addr)` (20_memory R52, R74, R75). -/
def softRead (addr : Word) (s : State) : Byte × State := (0x00, emit (.softRead addr) s)

/-- `SoftWrite(addr, v)` (20_memory R53, R74, R75). -/
def softWrite (addr : Word) (v : Byte) (s : State) : State := emit (.softWrite addr v) s

/-! ## The bus dispatcher -/

/-- `GfxRead(r)` for the register index `r = addr mod 8` (20_memory R59, R60, R62, R63). -/
def gfxRead (addr : Word) (s : State) : Byte × State :=
  match addr.toNat % 8 with
  | 2 => portRead .gfxReadStatus s
  | 7 => portRead .gfxReadData s
  | _ => softRead addr s

/-- `GfxWrite(r, v)` for the register index `r = addr mod 8` (20_memory R59, R60, R61, R63). -/
def gfxWrite (addr : Word) (v : Byte) (s : State) : State :=
  match addr.toNat % 8 with
  | 0 => emit (.gfxWriteControl v) s
  | 1 => emit (.gfxWriteMask v) s
  | 3 => emit (.gfxWriteOamAddr v) s
  | 5 => emit (.gfxWriteScroll v) s
  | 6 => emit (.gfxWriteAddr v) s
  | 7 => emit (.gfxWriteData v) s
  | _ => softWrite addr v s

/-- The 256 source bytes of an OAM DMA from `page`, ascending (20_memory R68, R69). -/
def oamBytes (page : Byte) (s : State) : List Byte :=
  (List.range 256).map fun i => s.mem.read ((page.toNat * 256 + i) % 0x800)

/-- `OamDma(v)` (20_memory R68). For `v` of 0x20 and more "the behaviour is unspecified and a model should refuse it"
(R69, 93_implementation_defined U4). -/
def oamDma (v : Byte) (s : State) : Host.Outcome State Fault Refusal :=
  if v.toNat < 0x20 then .next (emit (.gfxOamDma (oamBytes v s)) s) else .refused (.oamDmaSourceNotRam v)

/-- `MemRead(addr, 1)`: the byte, and the state after the access (20_memory R50, R52). -/
def memRead (addr : Word) (s : State) : Byte × State :=
  let n := addr.toNat
  if n < 0x2000 then (s.mem.read (n % 0x800), s)
  else if n < 0x4000 then gfxRead addr s
  else if n = 0x4015 then portRead .sndStatusRead s
  else if n = 0x4016 then portRead .inputRead s
  else if n < 0x8000 then softRead addr s
  else (s.mem.read n, s)

/-- `MemWrite(addr, 1, v)` (20_memory R51, R53). -/
def memWrite (addr : Word) (v : Byte) (s : State) : Host.Outcome State Fault Refusal :=
  let n := addr.toNat
  if n < 0x2000 then .next (s.setMem (s.mem.write (n % 0x800) v))
  else if n < 0x4000 then .next (gfxWrite addr v s)
  else if n < 0x4014 then .next (emit (.sndChannelWrite (n - 0x4000) v) s)
  else if n = 0x4014 then oamDma v s
  else if n = 0x4015 then .next (emit (.sndStatusWrite v) s)
  else if n = 0x4016 then .next (emit (.inputWrite v) s)
  else if n = 0x4017 then .next (emit (.sndFrameCounterWrite v) s)
  else .next (softWrite addr v s)

/-! ## Sequencing -/

/-- Goes on with `f` after a next state; a stop stays a stop. -/
def andThen (o : Host.Outcome State Fault Refusal) (f : State → Host.Outcome State Fault Refusal) :
    Host.Outcome State Fault Refusal :=
  match o with
  | .next s => f s
  | .fault r => .fault r
  | .refused r => .refused r

/-- Changes the next state by `f`; a stop stays a stop. -/
def onNext (o : Host.Outcome State Fault Refusal) (f : State → State) : Host.Outcome State Fault Refusal :=
  andThen o fun s => .next (f s)

/-! ## The stack -/

/-- The bus address of a stack location: 0x0100 + sp (10_state R24). -/
def stackAddr (sp : Byte) : Word := BitVec.ofNat 16 (0x100 + sp.toNat)

/-- `Push(v)` (10_state R31). -/
def push (v : Byte) (s : State) : Host.Outcome State Fault Refusal :=
  onNext (memWrite (stackAddr s.sp) v s) fun s => s.setSp (s.sp - 1)

/-- `Pop()` (10_state R32). -/
def pop (s : State) : Byte × State :=
  let s := s.setSp (s.sp + 1)
  memRead (stackAddr s.sp) s

/-- Pushes a return address: its low byte, then its high byte (49_control_transfer R230, R231). -/
def pushAddress (r : Word) (s : State) : Host.Outcome State Fault Refusal :=
  andThen (push (loByte r) s) fun s => push (hiByte r) s

/-- Pops a return address, high byte first, and adds one back (49_control_transfer R232). -/
def popAddress (s : State) : Word × State :=
  let (hi, s) := pop s
  let (lo, s) := pop s
  (wordOf hi lo + 1, s)

/-! ## Interrupt entry and return -/

/-- A word read from the bus, low byte first (20_memory R77, R85). -/
def readWord (addr : Word) (s : State) : Word × State :=
  let (lo, s) := memRead addr s
  let (hi, s) := memRead (addr + 1) s
  (wordOf hi lo, s)

/-- `InterruptSequence(vector, force)`: taking an IRQ, an NMI or a BRK (60_exceptions R246). -/
def interruptSequence (vector : Word) (force : Bool) (s : State) : Host.Outcome State Fault Refusal :=
  andThen (pushAddress (s.pc - 1) s) fun s =>
    let s := if force then s.setP (forceReserved s.p) else s
    andThen (push s.p s) fun s =>
      let s := s.setP (putFlag .i true s.p)
      let (target, s) := readWord vector s
      .next (s.setPc target)

/-- Return from an interrupt: all of `P`, then the address plus one (49_control_transfer R233). -/
def returnFromInterrupt (s : State) : State :=
  let (p, s) := pop s
  let s := s.setP p
  let (target, s) := popAddress s
  s.setPc target

/-- The vector of NMI (20_memory R85). -/
def nmiVector : Word := 0xFFFA

/-- The reset vector (20_memory R85). -/
def resetVector : Word := 0xFFFC

/-- The vector shared by IRQ and BRK (20_memory R85). -/
def irqVector : Word := 0xFFFE

end Sys2Proof.Machine
end

