-- ==== Sys2Proof/Machine/Operands.lean ====
section
/-!
DEFINITION. Sys2Proof/Machine/Operands.lean: the addressing-mode resolver (30_encoding R94 to R108) and the shapes of
instruction built on it. The operand bytes are fetched already (Machine/Engine.lean); `PC` holds the address of the
next sequential instruction (R92, log entry 15).
-/

namespace Sys2Proof.Machine

/-- The effective address of a place, and the state after the pointer reads of the indirect modes (30_encoding R99 to
R107). No access is made at the effective address. -/
def effectiveAddress (o : Place) (s : State) : Word × State :=
  match o with
  | .zp d => (BitVec.ofNat 16 d.toNat, s)
  | .zpx d => (BitVec.ofNat 16 ((d.toNat + s.x.toNat) % 256), s)
  | .zpy d => (BitVec.ofNat 16 ((d.toNat + s.y.toNat) % 256), s)
  | .abs a => (a, s)
  | .absx a => (BitVec.ofNat 16 (a.toNat + s.x.toNat), s)
  | .absy a => (BitVec.ofNat 16 (a.toNat + s.y.toNat), s)
  | .indx d =>
    let ptr := d.toNat + s.x.toNat
    let (lo, s) := memRead (BitVec.ofNat 16 ptr) s
    let (hi, s) := memRead (BitVec.ofNat 16 (ptr + 1)) s
    (wordOf hi lo, s)
  | .indy d =>
    let (lo, s) := memRead (BitVec.ofNat 16 d.toNat) s
    let (hi, s) := memRead (BitVec.ofNat 16 (d.toNat + 1)) s
    (BitVec.ofNat 16 ((wordOf hi lo).toNat + s.y.toNat), s)
  | .ind a =>
    let (lo, s) := memRead a s
    let (hi, s) := memRead (wordOf (hiByte a) (loByte a + 1)) s
    (wordOf hi lo, s)

/-- The operand value of a value-style mnemonic with a memory mode: one read at the effective address (30_encoding
R94, R95). -/
def readPlace (o : Place) (s : State) : Byte × State :=
  let (ea, s) := effectiveAddress o s
  memRead ea s

/-- The value an operand delivers, where its mode has one: the register `A` (R97), the literal byte (R98), or the byte
read at the effective address. -/
def operandValue (o : Operand) (s : State) : Option (Byte × State) :=
  match o with
  | .implied => none
  | .accumulator => some (s.a, s)
  | .immediate d => some (d, s)
  | .memory place => some (readPlace place s)
  | .relative _ => none

/-- A value-style instruction with a memory mode: `f` applied to the operand value and the state after the read. -/
def withValue (o : Place) (f : Byte → State → State) (s : State) : Host.Outcome State Fault Refusal :=
  let (m, s) := readPlace o s
  .next (f m s)

/-- A store: one write at the effective address and no read of it (30_encoding R95, 40_load_store R133). -/
def storePlace (o : Place) (v : State → Byte) (s : State) : Host.Outcome State Fault Refusal :=
  let (ea, s) := effectiveAddress o s
  memWrite ea (v s) s

/-- A read-modify-write instruction: one read, one write of the new value, then the flags (43_shifts R161, 45_incdec
R180). `res` and `flags` take the status byte from before the instruction and the old byte. -/
def modifyPlace (o : Place) (res : Byte → Byte → Byte) (flags : Byte → Byte → Byte) (s : State) :
    Host.Outcome State Fault Refusal :=
  let (ea, s) := effectiveAddress o s
  let (old, s) := memRead ea s
  onNext (memWrite ea (res s.p old) s) fun s => s.setP (flags s.p old)

/-- A jump to the effective address (49_control_transfer R228, R229). -/
def jumpTo (o : Place) (s : State) : Host.Outcome State Fault Refusal :=
  let (ea, s) := effectiveAddress o s
  .next (s.setPc ea)

/-- A call of the effective address: the return address less one is pushed (49_control_transfer R230). -/
def callTo (o : Place) (s : State) : Host.Outcome State Fault Refusal :=
  let (ea, s) := effectiveAddress o s
  onNext (pushAddress (s.pc - 1) s) fun s => s.setPc ea

/-! ## What the resolver hands a mnemonic, in any mode (30_encoding R93 to R95, log entry 19) -/

/-- The byte `M` of a value-style mnemonic: what the operand delivers; a free byte where its mode delivers none. -/
def takeValue (o : Operand) (s : State) : Byte × State :=
  match operandValue o s with
  | some r => r
  | none => drawByte s

/-- The place of an address-style mnemonic; where the mode yields no effective address, a free address. -/
def takePlace (o : Operand) (s : State) : Place × State :=
  match o with
  | .memory place => (place, s)
  | .implied | .accumulator | .immediate _ | .relative _ =>
    let (lo, s) := drawByte s
    let (hi, s) := drawByte s
    (.abs (wordOf hi lo), s)

/-- What resolving an operand does when the mnemonic takes nothing of it: the pointer reads of an indirect mode. -/
def resolveOnly (o : Operand) (s : State) : State :=
  match o with
  | .memory place => (effectiveAddress place s).2
  | .implied | .accumulator | .immediate _ | .relative _ => s

/-- The displacement byte of a branch; a free byte in a mode that has none. -/
def takeDisplacement (o : Operand) (s : State) : Byte × State :=
  match o with
  | .relative d => (d, s)
  | .implied | .accumulator | .immediate _ | .memory _ => drawByte (resolveOnly o s)

end Sys2Proof.Machine
end

