-- ==== Sys2Proof/Machine/Arithmetic.lean ====
section
/-!
DEFINITION. Sys2Proof/Machine/Arithmetic.lean: ADC and SBC (41_arithmetic R140 to R143). `P.D` is ignored (R140).
-/

namespace Sys2Proof.Machine

/-- The effect of ADC on the operand value (R141). -/
def addWithCarry (m : Byte) (s : State) : State :=
  (s.setA (adcResult m s.a (getFlag .c s.p))).setP (adcFlags m s.a s.p)

/-- The effect of SBC on the operand value (R143). -/
def subtractWithBorrow (m : Byte) (s : State) : State :=
  (s.setA (sbcResult m s.a (getFlag .c s.p))).setP (sbcFlags m s.a s.p)

/-- ADC imm, opcode 69 (R141, R98). -/
def execAdcImm (d : Byte) (s : State) : Host.Outcome State Fault Refusal := .next (addWithCarry d s)

/-- ADC zp, opcode 65 (R141, R99). -/
def execAdcZp (d : Byte) (s : State) : Host.Outcome State Fault Refusal := withValue (.zp d) addWithCarry s

/-- ADC zpx, opcode 75 (R141, R100). -/
def execAdcZpx (d : Byte) (s : State) : Host.Outcome State Fault Refusal := withValue (.zpx d) addWithCarry s

/-- ADC abs, opcode 6D (R141, R102). -/
def execAdcAbs (a : Word) (s : State) : Host.Outcome State Fault Refusal := withValue (.abs a) addWithCarry s

/-- ADC absx, opcode 7D (R141, R105). -/
def execAdcAbsx (a : Word) (s : State) : Host.Outcome State Fault Refusal := withValue (.absx a) addWithCarry s

/-- ADC absy, opcode 79 (R141, R106). -/
def execAdcAbsy (a : Word) (s : State) : Host.Outcome State Fault Refusal := withValue (.absy a) addWithCarry s

/-- ADC indx, opcode 61 (R141, R103). -/
def execAdcIndx (d : Byte) (s : State) : Host.Outcome State Fault Refusal := withValue (.indx d) addWithCarry s

/-- ADC indy, opcode 71 (R141, R104). -/
def execAdcIndy (d : Byte) (s : State) : Host.Outcome State Fault Refusal := withValue (.indy d) addWithCarry s

/-- SBC imm, opcode E9 (R143, R98). -/
def execSbcImm (d : Byte) (s : State) : Host.Outcome State Fault Refusal := .next (subtractWithBorrow d s)

/-- SBC zp, opcode E5 (R143, R99). -/
def execSbcZp (d : Byte) (s : State) : Host.Outcome State Fault Refusal := withValue (.zp d) subtractWithBorrow s

/-- SBC zpx, opcode F5 (R143, R100). -/
def execSbcZpx (d : Byte) (s : State) : Host.Outcome State Fault Refusal := withValue (.zpx d) subtractWithBorrow s

/-- SBC abs, opcode ED (R143, R102). -/
def execSbcAbs (a : Word) (s : State) : Host.Outcome State Fault Refusal := withValue (.abs a) subtractWithBorrow s

/-- SBC absx, opcode FD (R143, R105). -/
def execSbcAbsx (a : Word) (s : State) : Host.Outcome State Fault Refusal := withValue (.absx a) subtractWithBorrow s

/-- SBC absy, opcode F9 (R143, R106). -/
def execSbcAbsy (a : Word) (s : State) : Host.Outcome State Fault Refusal := withValue (.absy a) subtractWithBorrow s

/-- SBC indx, opcode E1 (R143, R103). -/
def execSbcIndx (d : Byte) (s : State) : Host.Outcome State Fault Refusal := withValue (.indx d) subtractWithBorrow s

/-- SBC indy, opcode F1 (R143, R104). -/
def execSbcIndy (d : Byte) (s : State) : Host.Outcome State Fault Refusal := withValue (.indy d) subtractWithBorrow s

end Sys2Proof.Machine
end

