-- ==== Sys2Proof/Machine/Compares.lean ====
section
/-!
DEFINITION. Sys2Proof/Machine/Compares.lean: CMP, CPX and CPY (44_compares R170 to R173).
-/

namespace Sys2Proof.Machine

/-- The effect of CMP on the operand value (R171). -/
def compareA (m : Byte) (s : State) : State := s.setP (compareFlags s.a m s.p)

/-- The effect of CPX on the operand value (R172). -/
def compareX (m : Byte) (s : State) : State := s.setP (compareFlags s.x m s.p)

/-- The effect of CPY on the operand value (R173). -/
def compareY (m : Byte) (s : State) : State := s.setP (compareFlags s.y m s.p)

/-- CMP imm, opcode C9 (R171, R98). -/
def execCmpImm (d : Byte) (s : State) : Host.Outcome State Fault Refusal := .next (compareA d s)

/-- CMP zp, opcode C5 (R171, R99). -/
def execCmpZp (d : Byte) (s : State) : Host.Outcome State Fault Refusal := withValue (.zp d) compareA s

/-- CMP zpx, opcode D5 (R171, R100). -/
def execCmpZpx (d : Byte) (s : State) : Host.Outcome State Fault Refusal := withValue (.zpx d) compareA s

/-- CMP abs, opcode CD (R171, R102). -/
def execCmpAbs (a : Word) (s : State) : Host.Outcome State Fault Refusal := withValue (.abs a) compareA s

/-- CMP absx, opcode DD (R171, R105). -/
def execCmpAbsx (a : Word) (s : State) : Host.Outcome State Fault Refusal := withValue (.absx a) compareA s

/-- CMP absy, opcode D9 (R171, R106). -/
def execCmpAbsy (a : Word) (s : State) : Host.Outcome State Fault Refusal := withValue (.absy a) compareA s

/-- CMP indx, opcode C1 (R171, R103). -/
def execCmpIndx (d : Byte) (s : State) : Host.Outcome State Fault Refusal := withValue (.indx d) compareA s

/-- CMP indy, opcode D1 (R171, R104). -/
def execCmpIndy (d : Byte) (s : State) : Host.Outcome State Fault Refusal := withValue (.indy d) compareA s

/-- CPX imm, opcode E0 (R172, R98). -/
def execCpxImm (d : Byte) (s : State) : Host.Outcome State Fault Refusal := .next (compareX d s)

/-- CPX zp, opcode E4 (R172, R99). -/
def execCpxZp (d : Byte) (s : State) : Host.Outcome State Fault Refusal := withValue (.zp d) compareX s

/-- CPX abs, opcode EC (R172, R102). -/
def execCpxAbs (a : Word) (s : State) : Host.Outcome State Fault Refusal := withValue (.abs a) compareX s

/-- CPY imm, opcode C0 (R173, R98). -/
def execCpyImm (d : Byte) (s : State) : Host.Outcome State Fault Refusal := .next (compareY d s)

/-- CPY zp, opcode C4 (R173, R99). -/
def execCpyZp (d : Byte) (s : State) : Host.Outcome State Fault Refusal := withValue (.zp d) compareY s

/-- CPY abs, opcode CC (R173, R102). -/
def execCpyAbs (a : Word) (s : State) : Host.Outcome State Fault Refusal := withValue (.abs a) compareY s

end Sys2Proof.Machine
end

