-- ==== Sys2Proof/Machine/Control.lean ====
section
/-!
DEFINITION. Sys2Proof/Machine/Control.lean: branches, jumps, call, returns and BRK (49_control_transfer R220 to R236).
-/

namespace Sys2Proof.Machine

/-- The branch rule: `PC` is the next instruction's address already, and the displacement is a signed byte (R220,
30_encoding R108). -/
def branchIf (taken : Bool) (d : Byte) (s : State) : Host.Outcome State Fault Refusal :=
  .next (if taken then s.setPc (s.pc + d.signExtend 16) else s)

/-- BEQ rel, opcode F0 (R221, R108). -/
def execBeq (d : Byte) (s : State) : Host.Outcome State Fault Refusal := branchIf (getFlag .z s.p) d s

/-- BNE rel, opcode D0 (R222, R108). -/
def execBne (d : Byte) (s : State) : Host.Outcome State Fault Refusal := branchIf (!getFlag .z s.p) d s

/-- BMI rel, opcode 30 (R223, R108). -/
def execBmi (d : Byte) (s : State) : Host.Outcome State Fault Refusal := branchIf (getFlag .n s.p) d s

/-- BPL rel, opcode 10 (R224, R108). -/
def execBpl (d : Byte) (s : State) : Host.Outcome State Fault Refusal := branchIf (!getFlag .n s.p) d s

/-- BCS rel, opcode B0 (R225, R108). -/
def execBcs (d : Byte) (s : State) : Host.Outcome State Fault Refusal := branchIf (getFlag .c s.p) d s

/-- BCC rel, opcode 90 (R226, R108). -/
def execBcc (d : Byte) (s : State) : Host.Outcome State Fault Refusal := branchIf (!getFlag .c s.p) d s

/-- BVC rel, opcode 50 (R227, R108). -/
def execBvc (d : Byte) (s : State) : Host.Outcome State Fault Refusal := branchIf (!getFlag .v s.p) d s

/-- JMP abs, opcode 4C (R228, R102). -/
def execJmpAbs (a : Word) (s : State) : Host.Outcome State Fault Refusal := jumpTo (.abs a) s

/-- JMP ind, opcode 6C (R229, R107). -/
def execJmpInd (a : Word) (s : State) : Host.Outcome State Fault Refusal := jumpTo (.ind a) s

/-- JSR abs, opcode 20 (R230, R102). -/
def execJsr (a : Word) (s : State) : Host.Outcome State Fault Refusal := callTo (.abs a) s

/-- RTS imp, opcode 60 (R232). -/
def execRts (s : State) : Host.Outcome State Fault Refusal :=
  let (target, s) := popAddress s
  .next (s.setPc target)

/-- RTI imp, opcode 40 (R233). -/
def execRti (s : State) : Host.Outcome State Fault Refusal := .next (returnFromInterrupt s)

/-- BRK imp, opcode 00 (R235). -/
def execBrk (s : State) : Host.Outcome State Fault Refusal := interruptSequence irqVector true s

end Sys2Proof.Machine
end

