-- ==== Sys2Proof/Machine/FlagOps.lean ====
section
/-!
DEFINITION. Sys2Proof/Machine/FlagOps.lean: SEC, SEI, CLC and CLD (48_flag_ops R210 to R213).
-/

namespace Sys2Proof.Machine

/-- SEC imp, opcode 38 (R210). -/
def execSec (s : State) : Host.Outcome State Fault Refusal := .next (s.setP (putFlag .c true s.p))

/-- SEI imp, opcode 78 (R211). -/
def execSei (s : State) : Host.Outcome State Fault Refusal := .next (s.setP (putFlag .i true s.p))

/-- CLC imp, opcode 18 (R212). -/
def execClc (s : State) : Host.Outcome State Fault Refusal := .next (s.setP (putFlag .c false s.p))

/-- CLD imp, opcode D8 (R213). -/
def execCld (s : State) : Host.Outcome State Fault Refusal := .next (s.setP (putFlag .d false s.p))

end Sys2Proof.Machine
end

