-- ==== Sys2Proof/Machine/IncDec.lean ====
section
/-!
DEFINITION. Sys2Proof/Machine/IncDec.lean: INC, DEC, INX, INY, DEX and DEY (45_incdec R180 to R185).
-/

namespace Sys2Proof.Machine

/-- INC zp, opcode E6 (R180, R99). -/
def execIncZp (d : Byte) (s : State) : Host.Outcome State Fault Refusal :=
  modifyPlace (.zp d) (fun _ old => old + 1) (fun p old => setZN (old + 1) p) s

/-- INC zpx, opcode F6 (R180, R100). -/
def execIncZpx (d : Byte) (s : State) : Host.Outcome State Fault Refusal :=
  modifyPlace (.zpx d) (fun _ old => old + 1) (fun p old => setZN (old + 1) p) s

/-- INC abs, opcode EE (R180, R102). -/
def execIncAbs (a : Word) (s : State) : Host.Outcome State Fault Refusal :=
  modifyPlace (.abs a) (fun _ old => old + 1) (fun p old => setZN (old + 1) p) s

/-- INC absx, opcode FE (R180, R105). -/
def execIncAbsx (a : Word) (s : State) : Host.Outcome State Fault Refusal :=
  modifyPlace (.absx a) (fun _ old => old + 1) (fun p old => setZN (old + 1) p) s

/-- DEC zp, opcode C6 (R181, R99). -/
def execDecZp (d : Byte) (s : State) : Host.Outcome State Fault Refusal :=
  modifyPlace (.zp d) (fun _ old => old - 1) (fun p old => setZN (old - 1) p) s

/-- DEC zpx, opcode D6 (R181, R100). -/
def execDecZpx (d : Byte) (s : State) : Host.Outcome State Fault Refusal :=
  modifyPlace (.zpx d) (fun _ old => old - 1) (fun p old => setZN (old - 1) p) s

/-- DEC abs, opcode CE (R181, R102). -/
def execDecAbs (a : Word) (s : State) : Host.Outcome State Fault Refusal :=
  modifyPlace (.abs a) (fun _ old => old - 1) (fun p old => setZN (old - 1) p) s

/-- DEC absx, opcode DE (R181, R105). -/
def execDecAbsx (a : Word) (s : State) : Host.Outcome State Fault Refusal :=
  modifyPlace (.absx a) (fun _ old => old - 1) (fun p old => setZN (old - 1) p) s

/-- INX imp, opcode E8 (R182). -/
def execInx (s : State) : Host.Outcome State Fault Refusal := .next ((s.setX (s.x + 1)).setP (setZN (s.x + 1) s.p))

/-- INY imp, opcode C8 (R183). -/
def execIny (s : State) : Host.Outcome State Fault Refusal := .next ((s.setY (s.y + 1)).setP (setZN (s.y + 1) s.p))

/-- DEX imp, opcode CA (R184). -/
def execDex (s : State) : Host.Outcome State Fault Refusal := .next ((s.setX (s.x - 1)).setP (setZN (s.x - 1) s.p))

/-- DEY imp, opcode 88 (R185). -/
def execDey (s : State) : Host.Outcome State Fault Refusal := .next ((s.setY (s.y - 1)).setP (setZN (s.y - 1) s.p))

end Sys2Proof.Machine
end

