-- ==== Sys2Proof/Machine/LoadStore.lean ====
section
/-!
DEFINITION. Sys2Proof/Machine/LoadStore.lean: the load and store instructions (40_load_store R130 to R135).
-/

namespace Sys2Proof.Machine

/-- The effect of LDA on the operand value (R130). -/
def loadA (m : Byte) (s : State) : State := (s.setA m).setP (setZN m s.p)

/-- The effect of LDX on the operand value (R131). -/
def loadX (m : Byte) (s : State) : State := (s.setX m).setP (setZN m s.p)

/-- The effect of LDY on the operand value (R132). -/
def loadY (m : Byte) (s : State) : State := (s.setY m).setP (setZN m s.p)

/-- LDA imm, opcode A9 (R130, R98). -/
def execLdaImm (d : Byte) (s : State) : Host.Outcome State Fault Refusal := .next (loadA d s)

/-- LDA zp, opcode A5 (R130, R99). -/
def execLdaZp (d : Byte) (s : State) : Host.Outcome State Fault Refusal := withValue (.zp d) loadA s

/-- LDA zpx, opcode B5 (R130, R100). -/
def execLdaZpx (d : Byte) (s : State) : Host.Outcome State Fault Refusal := withValue (.zpx d) loadA s

/-- LDA abs, opcode AD (R130, R102). -/
def execLdaAbs (a : Word) (s : State) : Host.Outcome State Fault Refusal := withValue (.abs a) loadA s

/-- LDA absx, opcode BD (R130, R105). -/
def execLdaAbsx (a : Word) (s : State) : Host.Outcome State Fault Refusal := withValue (.absx a) loadA s

/-- LDA absy, opcode B9 (R130, R106). -/
def execLdaAbsy (a : Word) (s : State) : Host.Outcome State Fault Refusal := withValue (.absy a) loadA s

/-- LDA indx, opcode A1 (R130, R103). -/
def execLdaIndx (d : Byte) (s : State) : Host.Outcome State Fault Refusal := withValue (.indx d) loadA s

/-- LDA indy, opcode B1 (R130, R104). -/
def execLdaIndy (d : Byte) (s : State) : Host.Outcome State Fault Refusal := withValue (.indy d) loadA s

/-- LDX imm, opcode A2 (R131, R98). -/
def execLdxImm (d : Byte) (s : State) : Host.Outcome State Fault Refusal := .next (loadX d s)

/-- LDX zp, opcode A6 (R131, R99). -/
def execLdxZp (d : Byte) (s : State) : Host.Outcome State Fault Refusal := withValue (.zp d) loadX s

/-- LDX zpy, opcode B6 (R131, R101). -/
def execLdxZpy (d : Byte) (s : State) : Host.Outcome State Fault Refusal := withValue (.zpy d) loadX s

/-- LDX abs, opcode AE (R131, R102). -/
def execLdxAbs (a : Word) (s : State) : Host.Outcome State Fault Refusal := withValue (.abs a) loadX s

/-- LDX absy, opcode BE (R131, R106). -/
def execLdxAbsy (a : Word) (s : State) : Host.Outcome State Fault Refusal := withValue (.absy a) loadX s

/-- LDY imm, opcode A0 (R132, R98). -/
def execLdyImm (d : Byte) (s : State) : Host.Outcome State Fault Refusal := .next (loadY d s)

/-- LDY zp, opcode A4 (R132, R99). -/
def execLdyZp (d : Byte) (s : State) : Host.Outcome State Fault Refusal := withValue (.zp d) loadY s

/-- LDY zpx, opcode B4 (R132, R100). -/
def execLdyZpx (d : Byte) (s : State) : Host.Outcome State Fault Refusal := withValue (.zpx d) loadY s

/-- LDY abs, opcode AC (R132, R102). -/
def execLdyAbs (a : Word) (s : State) : Host.Outcome State Fault Refusal := withValue (.abs a) loadY s

/-- LDY absx, opcode BC (R132, R105). -/
def execLdyAbsx (a : Word) (s : State) : Host.Outcome State Fault Refusal := withValue (.absx a) loadY s

/-- STA zp, opcode 85 (R133, R99). -/
def execStaZp (d : Byte) (s : State) : Host.Outcome State Fault Refusal := storePlace (.zp d) State.a s

/-- STA zpx, opcode 95 (R133, R100). -/
def execStaZpx (d : Byte) (s : State) : Host.Outcome State Fault Refusal := storePlace (.zpx d) State.a s

/-- STA abs, opcode 8D (R133, R102). -/
def execStaAbs (a : Word) (s : State) : Host.Outcome State Fault Refusal := storePlace (.abs a) State.a s

/-- STA absx, opcode 9D (R133, R105). -/
def execStaAbsx (a : Word) (s : State) : Host.Outcome State Fault Refusal := storePlace (.absx a) State.a s

/-- STA absy, opcode 99 (R133, R106). -/
def execStaAbsy (a : Word) (s : State) : Host.Outcome State Fault Refusal := storePlace (.absy a) State.a s

/-- STA indx, opcode 81 (R133, R103). -/
def execStaIndx (d : Byte) (s : State) : Host.Outcome State Fault Refusal := storePlace (.indx d) State.a s

/-- STA indy, opcode 91 (R133, R104). -/
def execStaIndy (d : Byte) (s : State) : Host.Outcome State Fault Refusal := storePlace (.indy d) State.a s

/-- STX zp, opcode 86 (R134, R99). -/
def execStxZp (d : Byte) (s : State) : Host.Outcome State Fault Refusal := storePlace (.zp d) State.x s

/-- STX zpy, opcode 96 (R134, R101). -/
def execStxZpy (d : Byte) (s : State) : Host.Outcome State Fault Refusal := storePlace (.zpy d) State.x s

/-- STX abs, opcode 8E (R134, R102). -/
def execStxAbs (a : Word) (s : State) : Host.Outcome State Fault Refusal := storePlace (.abs a) State.x s

/-- STY zp, opcode 84 (R135, R99). -/
def execStyZp (d : Byte) (s : State) : Host.Outcome State Fault Refusal := storePlace (.zp d) State.y s

/-- STY zpx, opcode 94 (R135, R100). -/
def execStyZpx (d : Byte) (s : State) : Host.Outcome State Fault Refusal := storePlace (.zpx d) State.y s

/-- STY abs, opcode 8C (R135, R102). -/
def execStyAbs (a : Word) (s : State) : Host.Outcome State Fault Refusal := storePlace (.abs a) State.y s

end Sys2Proof.Machine
end

