-- ==== Sys2Proof/Machine/Logic.lean ====
section
/-!
DEFINITION. Sys2Proof/Machine/Logic.lean: AND, ORA, EOR and BIT (42_logic R150 to R153).
-/

namespace Sys2Proof.Machine

/-- The effect of AND on the operand value (R150). -/
def andA (m : Byte) (s : State) : State := (s.setA (s.a &&& m)).setP (setZN (s.a &&& m) s.p)

/-- The effect of ORA on the operand value (R151). -/
def orA (m : Byte) (s : State) : State := (s.setA (s.a ||| m)).setP (setZN (s.a ||| m) s.p)

/-- The effect of EOR on the operand value (R152). -/
def eorA (m : Byte) (s : State) : State := (s.setA (s.a ^^^ m)).setP (setZN (s.a ^^^ m) s.p)

/-- The effect of BIT on the operand value (R153). -/
def bitTest (m : Byte) (s : State) : State := s.setP (bitFlags m s.a s.p)

/-- AND imm, opcode 29 (R150, R98). -/
def execAndImm (d : Byte) (s : State) : Host.Outcome State Fault Refusal := .next (andA d s)

/-- AND zp, opcode 25 (R150, R99). -/
def execAndZp (d : Byte) (s : State) : Host.Outcome State Fault Refusal := withValue (.zp d) andA s

/-- AND zpx, opcode 35 (R150, R100). -/
def execAndZpx (d : Byte) (s : State) : Host.Outcome State Fault Refusal := withValue (.zpx d) andA s

/-- AND abs, opcode 2D (R150, R102). -/
def execAndAbs (a : Word) (s : State) : Host.Outcome State Fault Refusal := withValue (.abs a) andA s

/-- AND absx, opcode 3D (R150, R105). -/
def execAndAbsx (a : Word) (s : State) : Host.Outcome State Fault Refusal := withValue (.absx a) andA s

/-- AND absy, opcode 39 (R150, R106). -/
def execAndAbsy (a : Word) (s : State) : Host.Outcome State Fault Refusal := withValue (.absy a) andA s

/-- AND indx, opcode 21 (R150, R103). -/
def execAndIndx (d : Byte) (s : State) : Host.Outcome State Fault Refusal := withValue (.indx d) andA s

/-- AND indy, opcode 31 (R150, R104). -/
def execAndIndy (d : Byte) (s : State) : Host.Outcome State Fault Refusal := withValue (.indy d) andA s

/-- ORA imm, opcode 09 (R151, R98). -/
def execOraImm (d : Byte) (s : State) : Host.Outcome State Fault Refusal := .next (orA d s)

/-- ORA zp, opcode 05 (R151, R99). -/
def execOraZp (d : Byte) (s : State) : Host.Outcome State Fault Refusal := withValue (.zp d) orA s

/-- ORA zpx, opcode 15 (R151, R100). -/
def execOraZpx (d : Byte) (s : State) : Host.Outcome State Fault Refusal := withValue (.zpx d) orA s

/-- ORA abs, opcode 0D (R151, R102). -/
def execOraAbs (a : Word) (s : State) : Host.Outcome State Fault Refusal := withValue (.abs a) orA s

/-- ORA absx, opcode 1D (R151, R105). -/
def execOraAbsx (a : Word) (s : State) : Host.Outcome State Fault Refusal := withValue (.absx a) orA s

/-- ORA absy, opcode 19 (R151, R106). -/
def execOraAbsy (a : Word) (s : State) : Host.Outcome State Fault Refusal := withValue (.absy a) orA s

/-- ORA indx, opcode 01 (R151, R103). -/
def execOraIndx (d : Byte) (s : State) : Host.Outcome State Fault Refusal := withValue (.indx d) orA s

/-- ORA indy, opcode 11 (R151, R104). -/
def execOraIndy (d : Byte) (s : State) : Host.Outcome State Fault Refusal := withValue (.indy d) orA s

/-- EOR imm, opcode 49 (R152, R98). -/
def execEorImm (d : Byte) (s : State) : Host.Outcome State Fault Refusal := .next (eorA d s)

/-- EOR zp, opcode 45 (R152, R99). -/
def execEorZp (d : Byte) (s : State) : Host.Outcome State Fault Refusal := withValue (.zp d) eorA s

/-- EOR zpx, opcode 55 (R152, R100). -/
def execEorZpx (d : Byte) (s : State) : Host.Outcome State Fault Refusal := withValue (.zpx d) eorA s

/-- EOR abs, opcode 4D (R152, R102). -/
def execEorAbs (a : Word) (s : State) : Host.Outcome State Fault Refusal := withValue (.abs a) eorA s

/-- EOR absx, opcode 5D (R152, R105). -/
def execEorAbsx (a : Word) (s : State) : Host.Outcome State Fault Refusal := withValue (.absx a) eorA s

/-- EOR absy, opcode 59 (R152, R106). -/
def execEorAbsy (a : Word) (s : State) : Host.Outcome State Fault Refusal := withValue (.absy a) eorA s

/-- EOR indx, opcode 41 (R152, R103). -/
def execEorIndx (d : Byte) (s : State) : Host.Outcome State Fault Refusal := withValue (.indx d) eorA s

/-- EOR indy, opcode 51 (R152, R104). -/
def execEorIndy (d : Byte) (s : State) : Host.Outcome State Fault Refusal := withValue (.indy d) eorA s

/-- BIT zp, opcode 24 (R153, R99). -/
def execBitZp (d : Byte) (s : State) : Host.Outcome State Fault Refusal := withValue (.zp d) bitTest s

/-- BIT abs, opcode 2C (R153, R102). -/
def execBitAbs (a : Word) (s : State) : Host.Outcome State Fault Refusal := withValue (.abs a) bitTest s

end Sys2Proof.Machine
end

