-- ==== Sys2Proof/Machine/Shifts.lean ====
section
/-!
DEFINITION. Sys2Proof/Machine/Shifts.lean: ASL, LSR, ROL and ROR, accumulator and memory forms (43_shifts R160 to R169).
-/

namespace Sys2Proof.Machine

/-- ASL acc, opcode 0A (R162, R97). -/
def execAslAcc (s : State) : Host.Outcome State Fault Refusal :=
  .next ((s.setA (aslResult s.a)).setP (aslFlags s.a s.p))

/-- ASL zp, opcode 06 (R163, R99). -/
def execAslZp (d : Byte) (s : State) : Host.Outcome State Fault Refusal :=
  modifyPlace (.zp d) (fun _ old => aslResult old) (fun p old => aslFlags old p) s

/-- ASL zpx, opcode 16 (R163, R100). -/
def execAslZpx (d : Byte) (s : State) : Host.Outcome State Fault Refusal :=
  modifyPlace (.zpx d) (fun _ old => aslResult old) (fun p old => aslFlags old p) s

/-- ASL abs, opcode 0E (R163, R102). -/
def execAslAbs (a : Word) (s : State) : Host.Outcome State Fault Refusal :=
  modifyPlace (.abs a) (fun _ old => aslResult old) (fun p old => aslFlags old p) s

/-- ASL absx, opcode 1E (R163, R105). -/
def execAslAbsx (a : Word) (s : State) : Host.Outcome State Fault Refusal :=
  modifyPlace (.absx a) (fun _ old => aslResult old) (fun p old => aslFlags old p) s

/-- LSR acc, opcode 4A (R164, R97). -/
def execLsrAcc (s : State) : Host.Outcome State Fault Refusal :=
  .next ((s.setA (lsrResult s.a)).setP (lsrFlags s.a s.p))

/-- LSR zp, opcode 46 (R165, R99). -/
def execLsrZp (d : Byte) (s : State) : Host.Outcome State Fault Refusal :=
  modifyPlace (.zp d) (fun _ old => lsrResult old) (fun p old => lsrFlags old p) s

/-- LSR zpx, opcode 56 (R165, R100). -/
def execLsrZpx (d : Byte) (s : State) : Host.Outcome State Fault Refusal :=
  modifyPlace (.zpx d) (fun _ old => lsrResult old) (fun p old => lsrFlags old p) s

/-- LSR abs, opcode 4E (R165, R102). -/
def execLsrAbs (a : Word) (s : State) : Host.Outcome State Fault Refusal :=
  modifyPlace (.abs a) (fun _ old => lsrResult old) (fun p old => lsrFlags old p) s

/-- LSR absx, opcode 5E (R165, R105). -/
def execLsrAbsx (a : Word) (s : State) : Host.Outcome State Fault Refusal :=
  modifyPlace (.absx a) (fun _ old => lsrResult old) (fun p old => lsrFlags old p) s

/-- ROL acc, opcode 2A (R166, R97). -/
def execRolAcc (s : State) : Host.Outcome State Fault Refusal :=
  .next ((s.setA (rolResult (getFlag .c s.p) s.a)).setP (rolFlags s.a s.p))

/-- ROL zp, opcode 26 (R167, R99). -/
def execRolZp (d : Byte) (s : State) : Host.Outcome State Fault Refusal :=
  modifyPlace (.zp d) (fun p old => rolResult (getFlag .c p) old) (fun p old => rolFlags old p) s

/-- ROL zpx, opcode 36 (R167, R100). -/
def execRolZpx (d : Byte) (s : State) : Host.Outcome State Fault Refusal :=
  modifyPlace (.zpx d) (fun p old => rolResult (getFlag .c p) old) (fun p old => rolFlags old p) s

/-- ROL abs, opcode 2E (R167, R102). -/
def execRolAbs (a : Word) (s : State) : Host.Outcome State Fault Refusal :=
  modifyPlace (.abs a) (fun p old => rolResult (getFlag .c p) old) (fun p old => rolFlags old p) s

/-- ROL absx, opcode 3E (R167, R105). -/
def execRolAbsx (a : Word) (s : State) : Host.Outcome State Fault Refusal :=
  modifyPlace (.absx a) (fun p old => rolResult (getFlag .c p) old) (fun p old => rolFlags old p) s

/-- ROR acc, opcode 6A (R168, R97). -/
def execRorAcc (s : State) : Host.Outcome State Fault Refusal :=
  .next ((s.setA (rorResult (getFlag .c s.p) s.a)).setP (rorFlags s.a s.p))

/-- ROR zp, opcode 66 (R169, R99). -/
def execRorZp (d : Byte) (s : State) : Host.Outcome State Fault Refusal :=
  modifyPlace (.zp d) (fun p old => rorResult (getFlag .c p) old) (fun p old => rorFlags old p) s

/-- ROR zpx, opcode 76 (R169, R100). -/
def execRorZpx (d : Byte) (s : State) : Host.Outcome State Fault Refusal :=
  modifyPlace (.zpx d) (fun p old => rorResult (getFlag .c p) old) (fun p old => rorFlags old p) s

/-- ROR abs, opcode 6E (R169, R102). -/
def execRorAbs (a : Word) (s : State) : Host.Outcome State Fault Refusal :=
  modifyPlace (.abs a) (fun p old => rorResult (getFlag .c p) old) (fun p old => rorFlags old p) s

/-- ROR absx, opcode 7E (R169, R105). -/
def execRorAbsx (a : Word) (s : State) : Host.Outcome State Fault Refusal :=
  modifyPlace (.absx a) (fun p old => rorResult (getFlag .c p) old) (fun p old => rorFlags old p) s

end Sys2Proof.Machine
end

