-- ==== Sys2Proof/Machine/StackOps.lean ====
section
/-!
DEFINITION. Sys2Proof/Machine/StackOps.lean: PHA, PLA, PHP and PLP (47_stack_ops R200 to R203).
-/

namespace Sys2Proof.Machine

/-- PHA imp, opcode 48 (R200). -/
def execPha (s : State) : Host.Outcome State Fault Refusal := push s.a s

/-- PLA imp, opcode 68 (R201). -/
def execPla (s : State) : Host.Outcome State Fault Refusal :=
  let (m, s) := pop s
  .next ((s.setA m).setP (setZN m s.p))

/-- PHP imp, opcode 08 (R202). -/
def execPhp (s : State) : Host.Outcome State Fault Refusal :=
  let s := s.setP (forceReserved s.p)
  push s.p s

/-- PLP imp, opcode 28 (R203). -/
def execPlp (s : State) : Host.Outcome State Fault Refusal :=
  let (p, s) := pop s
  .next (s.setP p)

end Sys2Proof.Machine
end

