-- ==== Sys2Proof/Machine/Transfers.lean ====
section
/-!
DEFINITION. Sys2Proof/Machine/Transfers.lean: TAX, TXA, TAY, TYA and TXS (46_transfers R190 to R194).
-/

namespace Sys2Proof.Machine

/-- TAX imp, opcode AA (R190). -/
def execTax (s : State) : Host.Outcome State Fault Refusal := .next ((s.setX s.a).setP (setZN s.a s.p))

/-- TXA imp, opcode 8A (R191). -/
def execTxa (s : State) : Host.Outcome State Fault Refusal := .next ((s.setA s.x).setP (setZN s.x s.p))

/-- TAY imp, opcode A8 (R192). -/
def execTay (s : State) : Host.Outcome State Fault Refusal := .next ((s.setY s.a).setP (setZN s.a s.p))

/-- TYA imp, opcode 98 (R193). -/
def execTya (s : State) : Host.Outcome State Fault Refusal := .next ((s.setA s.y).setP (setZN s.y s.p))

/-- TXS imp, opcode 9A (R194). -/
def execTxs (s : State) : Host.Outcome State Fault Refusal := .next (s.setSp s.x)

end Sys2Proof.Machine
end

