-- ==== Sys2Proof/Machine/Rules.lean ====
section
/-!
DEFINITION. Sys2Proof/Machine/Rules.lean: the rule of each mnemonic, run on whatever the resolver hands it (30_encoding
R93 to R95). On a row of the table of R110 it is the meaning exec gives; a map other than the default may pair the
mnemonic with any other mode (log entry 19).
-/

namespace Sys2Proof.Machine

/-- The rule of a mnemonic, by what it takes of the resolver (30_encoding R94). -/
inductive Rule where
  /-- Value-style: an effect on the byte `M` and the state after it is taken. -/
  | value (f : Byte → State → State)
  /-- Address-style: one write of `v`. -/
  | store (v : State → Byte)
  /-- Address-style: the result and the flags, from the status byte before and the old byte. -/
  | modify (res flags : Byte → Byte → Byte)
  /-- Address-style: JMP. -/
  | jump
  /-- Address-style: JSR. -/
  | call
  /-- A branch, taken when the status byte passes the test. -/
  | branch (test : Byte → Bool)
  /-- Nothing is taken. -/
  | alone (run : State → Host.Outcome State Fault Refusal)

/-- The rule of each mnemonic (files 40 to 49 of the spec). -/
def ruleOf : Mnemonic → Rule
  | .lda => .value loadA
  | .ldx => .value loadX
  | .ldy => .value loadY
  | .sta => .store State.a
  | .stx => .store State.x
  | .sty => .store State.y
  | .adc => .value addWithCarry
  | .sbc => .value subtractWithBorrow
  | .and => .value andA
  | .ora => .value orA
  | .eor => .value eorA
  | .bit => .value bitTest
  | .asl => .modify (fun _ old => aslResult old) (fun p old => aslFlags old p)
  | .lsr => .modify (fun _ old => lsrResult old) (fun p old => lsrFlags old p)
  | .rol => .modify (fun p old => rolResult (getFlag .c p) old) (fun p old => rolFlags old p)
  | .ror => .modify (fun p old => rorResult (getFlag .c p) old) (fun p old => rorFlags old p)
  | .cmp => .value compareA
  | .cpx => .value compareX
  | .cpy => .value compareY
  | .inc => .modify (fun _ old => old + 1) (fun p old => setZN (old + 1) p)
  | .dec => .modify (fun _ old => old - 1) (fun p old => setZN (old - 1) p)
  | .inx => .alone execInx
  | .iny => .alone execIny
  | .dex => .alone execDex
  | .dey => .alone execDey
  | .tax => .alone execTax
  | .txa => .alone execTxa
  | .tay => .alone execTay
  | .tya => .alone execTya
  | .txs => .alone execTxs
  | .pha => .alone execPha
  | .pla => .alone execPla
  | .php => .alone execPhp
  | .plp => .alone execPlp
  | .sec => .alone execSec
  | .sei => .alone execSei
  | .clc => .alone execClc
  | .cld => .alone execCld
  | .beq => .branch (getFlag .z)
  | .bne => .branch fun p => !getFlag .z p
  | .bmi => .branch (getFlag .n)
  | .bpl => .branch fun p => !getFlag .n p
  | .bcs => .branch (getFlag .c)
  | .bcc => .branch fun p => !getFlag .c p
  | .bvc => .branch fun p => !getFlag .v p
  | .jmp => .jump
  | .jsr => .call
  | .rts => .alone execRts
  | .rti => .alone execRti
  | .brk => .alone execBrk

/-- The effect of a value-style mnemonic (30_encoding R94); `none` for the others. -/
def valueEffect (mn : Mnemonic) : Option (Byte → State → State) :=
  match ruleOf mn with
  | .value f => some f
  | _ => none

/-- What a store writes out; `none` for the other mnemonics. -/
def storedRegister (mn : Mnemonic) : Option (State → Byte) :=
  match ruleOf mn with
  | .store v => some v
  | _ => none

/-- The result and the flags of a read-modify-write mnemonic; `none` for the others. -/
def modifyEffect (mn : Mnemonic) : Option ((Byte → Byte → Byte) × (Byte → Byte → Byte)) :=
  match ruleOf mn with
  | .modify res flags => some (res, flags)
  | _ => none

/-- The mnemonic's rule on an operand of any mode (30_encoding R93 to R95). The operand of the accumulator mode is the
register A, read and written in place (R97). What the rule needs and the mode does not yield is a free value: DEDUCED,
not safe (log entry 19). -/
def runRule (mn : Mnemonic) (o : Operand) (s : State) : Host.Outcome State Fault Refusal :=
  match ruleOf mn, o with
  | .value f, o =>
    let (m, s) := takeValue o s
    .next (f m s)
  | .store v, .accumulator => .next (s.setA (v s))
  | .store v, o =>
    let (place, s) := takePlace o s
    storePlace place v s
  | .modify res flags, .accumulator => .next ((s.setA (res s.p s.a)).setP (flags s.p s.a))
  | .modify res flags, o =>
    let (place, s) := takePlace o s
    modifyPlace place res flags s
  | .jump, o =>
    let (place, s) := takePlace o s
    jumpTo place s
  | .call, o =>
    let (place, s) := takePlace o s
    callTo place s
  | .branch test, o =>
    let (d, s) := takeDisplacement o s
    branchIf (test s.p) d s
  | .alone run, o => run (resolveOnly o s)

/-- What the resolver hands a mnemonic, as the trace records it (30_encoding R94, 10_state R40): the byte for a
value-style mnemonic, the effective address for an address-style one, the displacement for a branch. -/
def resolvedAs (mn : Mnemonic) (o : Operand) (s : State) : Resolved :=
  match ruleOf mn, o with
  | .value _, o => .value (takeValue o s).1
  | .store _, .accumulator | .modify _ _, .accumulator => .nothing
  | .store _, o | .modify _ _, o | .jump, o | .call, o =>
    let (place, s) := takePlace o s
    .address (effectiveAddress place s).1
  | .branch _, o => .displacement (takeDisplacement o s).1
  | .alone _, _ => .nothing

/-- What the resolver hands instruction `i`. -/
def resolved (i : Instr) (s : State) : Resolved := resolvedAs i.mnemonic i.operand s

end Sys2Proof.Machine
end

