-- ==== Sys2Proof/Machine/Engine.lean ====
section
/-!
DEFINITION. Sys2Proof/Machine/Engine.lean: fetching an instruction, the Fault, the `step` algorithm (60_exceptions R240
to R244), and the other requests of the block (10_state R34 to R39; 70_reset_and_hazards R280 to R282).
-/

namespace Sys2Proof.Machine

/-! ## The step algorithm -/

/-- `Fetch()` (30_encoding R92). -/
def fetch (s : State) : Byte × State :=
  let (b, s) := memRead s.pc s
  (b, s.setPc (s.pc + 1))

/-- Fetches one instruction: the opcode byte, and the operand bytes its row says (30_encoding R90 to R93). An opcode
byte that makes no `Instr` fetches no operand byte here. -/
def fetchInstr (s : State) : Except RowError Instr × State :=
  let (opc, s) := fetch s
  match s.opcodeMap.form opc with
  | .error e => (.error e, s)
  | .ok (.f1 i) => (.ok i, s)
  | .ok (.f2 k) =>
    let (d, s) := fetch s
    (.ok (k d), s)
  | .ok (.f3 k) =>
    let (lo, s) := fetch s
    let (hi, s) := fetch s
    (.ok (k (wordOf hi lo)), s)

/-- `raise Fault(opc, addr)` (60_exceptions R240, R241): the latch, and the log record. -/
def raiseFault (opc : Byte) (addr : Word) (s : State) : State :=
  emit (.faultRaised opc addr) (s.setFaulted true)

/-- Fetches the operand bytes of a mode (30_encoding R90, R92). -/
def fetchOperand (md : Mode) (s : State) : Operand × State :=
  let (lo, s1) := fetch s
  let (hi, s2) := fetch s1
  let a := wordOf hi lo
  match md with
  | .imp => (.implied, s)
  | .acc => (.accumulator, s)
  | .imm => (.immediate lo, s1)
  | .rel => (.relative lo, s1)
  | .zp => (.memory (.zp lo), s1)
  | .zpx => (.memory (.zpx lo), s1)
  | .zpy => (.memory (.zpy lo), s1)
  | .indx => (.memory (.indx lo), s1)
  | .indy => (.memory (.indy lo), s1)
  | .abs => (.memory (.abs a), s2)
  | .absx => (.memory (.absx a), s2)
  | .absy => (.memory (.absy a), s2)
  | .ind => (.memory (.ind a), s2)

/-- The trace record of instruction `i` fetched from `addr`, `s` being the state after the fetch (10_state R40). -/
def traceRecord (addr : Word) (i : Instr) (s : State) : TraceRecord where
  address := addr
  mnemonic := i.mnemonic
  mode := i.mode
  operand := resolved i s

/-- Adds a record to the trace. -/
def addTrace (r : TraceRecord) (s : State) : State := s.setTrace (r :: s.trace)

/-- Runs instruction `i` fetched from `addr`, and traces it (60_exceptions R242). -/
def runInstr (addr : Word) (i : Instr) (s : State) : Host.Outcome State Fault Refusal :=
  onNext (exec i s) (addTrace (traceRecord addr i s))

/-- Runs a row, its opcode byte fetched from `addr`, `s` being the state after that fetch: the mode's operand bytes are
fetched and the mnemonic's rule runs (30_encoding R93). The step uses it where the row is outside the table of R110
(log entry 19). -/
def runRow (addr : Word) (mn : Mnemonic) (md : Mode) (s : State) : Host.Outcome State Fault Refusal :=
  let (o, s) := fetchOperand md s
  onNext (runRule mn o s) (addTrace ⟨addr, mn, md, resolvedAs mn o s⟩)

/-- Whether the poll at the start of a step takes the IRQ (60_exceptions R244). -/
def irqTaken (s : State) : Bool := s.irqPending && !getFlag .i s.p

/-- The fetch and execution of one instruction, or its Fault (60_exceptions R242). -/
def fetchAndRun (s : State) : Host.Outcome State Fault Refusal :=
  match fetchInstr s with
  | (.error (.illegalOpcode opc), t) => .next (raiseFault opc s.pc t)
  | (.error (.offTable mn md), t) => runRow s.pc mn md t
  | (.ok i, t) => runInstr s.pc i t

/-- `step()` (60_exceptions R242): nothing on a Faulted engine (R243), else an IRQ entry (R245), else one
instruction. -/
def engineStep (s : State) : Host.Outcome State Fault Refusal :=
  if s.faulted then .next s
  else
    let s := s.setStarted true
    if irqTaken s then interruptSequence irqVector false s else fetchAndRun s

/-! ## The other requests -/

/-- `nmi` (60_exceptions R248); on a Faulted engine nothing (R249). -/
def nmiEntry (s : State) : Host.Outcome State Fault Refusal :=
  if s.faulted then .next s else interruptSequence nmiVector false s

/-- `reset` with the open parameters `v` (10_state R46, 70_reset_and_hazards R280). ROM stays as the loader left it;
OPCODE_MAP is fixed; the logs, the IRQ level, the draws, the coming requests and the driver are not the block's
registers and stay (log entry 17). -/
def resetTo (v : ResetValues) (s : State) : State :=
  { s with
    a := v.a
    x := v.x
    y := v.y
    sp := v.sp
    p := v.p
    pc := v.pc
    faulted := false
    started := false
    mem := Memory.cellsFrom 0 (v.ram.take 0x800) ++ s.mem.romPart }

/-- `pc_load(w)`: before the first step only (10_state R38). -/
def pcLoad (w : Word) (s : State) : Host.Outcome State Fault Refusal :=
  if s.started then .refused .pcLoadAfterFirstStep else .next (s.setPc w)

/-- `rom_load(image)`: ROM[k] becomes byte `k` of the image, before the first step only (10_state R43). A ROM byte the
image does not reach reads as unlisted (log entry 18). -/
def romLoad (image : List Byte) (s : State) : Host.Outcome State Fault Refusal :=
  if s.started then .refused .romLoadAfterFirstStep
  else .next (s.setMem (s.mem.ramPart ++ Memory.cellsFrom 0x8000 (image.take 0x8000)))

/-- The word at the reset vector, as the driver reads it at boot (70_reset_and_hazards R281). -/
def bootVector (s : State) : Word := (readWord resetVector s).1

/-- Serves one request, or one change of the IRQ level (10_state R34). -/
def serve (r : Request) (s : State) : Host.Outcome State Fault Refusal :=
  match r with
  | .step => engineStep s
  | .nmi => nmiEntry s
  | .irqLevel level => .next (s.setIrqPending level)
  | .reset v => .next (resetTo v s)
  | .pcLoad w => pcLoad w s
  | .romLoad image => romLoad image s

/-- Whether the driver may make a request: the boot ports have no move after the first step (70_reset_and_hazards R285,
93_implementation_defined U18). -/
def Request.hasMove (started : Bool) : Request → Bool
  | .pcLoad _ | .romLoad _ => !started
  | .step | .nmi | .irqLevel _ | .reset _ => true

/-- The next request, and the state in which it is served: the first of the agenda; when there is none, what the driver
does (70_reset_and_hazards R285, R291, log entry 7). Where the free schedule has a request without a move, a driver
that keeps its duties does not make it, and steps. -/
def nextRequest (s : State) : Request × State :=
  match s.agenda with
  | r :: rest => (r, s.setAgenda rest)
  | [] =>
    match s.driver with
    | .steps => (.step, s)
    | .free n =>
      let r := Config.driverRequest n
      (if r.hasMove s.started then r else .step, s.setDriver (.free (n + 1)))

/-- The machine's next move: the next request, served. -/
def nextMove (s : State) : Host.Outcome State Fault Refusal :=
  let (r, s) := nextRequest s
  serve r s

/-! ## Looking at the block, and placing bytes in it -/

/-- What the `snapshot` port presents (10_state R39). -/
structure Snapshot where
  a : Byte
  x : Byte
  y : Byte
  sp : Byte
  pc : Word
  p : Byte
  fault : Bool
  deriving DecidableEq, Repr

/-- The `snapshot` port: reading it changes nothing (10_state R39). -/
def snapshot (s : State) : Snapshot where
  a := s.a
  x := s.x
  y := s.y
  sp := s.sp
  pc := s.pc
  p := s.p
  fault := s.faulted

/-- Puts bytes into RAM or ROM from bus address `addr` on, from outside; where no memory is, nothing. -/
def placeBytes : List Byte → Word → Memory → Memory
  | [], _, m => m
  | b :: rest, addr, m =>
    placeBytes rest (addr + 1)
      (match cellOf addr with
        | some k => m.write k b
        | none => m)

/-- Whether the three bytes from `addr` on are all RAM or ROM. -/
def placeable (addr : Word) : Bool :=
  (cellOf addr).isSome && (cellOf (addr + 1)).isSome && (cellOf (addr + 2)).isSome

/-- The state that will fetch the instruction bytes `bytes` in its very next step: they lie at `PC` (at 0x8000, and
`PC` there, when `PC` points where no memory is) and are read under the default map, nothing comes before the step, and
no IRQ is taken in it. -/
def placeNext (bytes : List Byte) (s : State) : State :=
  let pc := if placeable s.pc then s.pc else 0x8000
  { s with
    pc := pc
    mem := placeBytes bytes pc s.mem
    faulted := false
    irqPending := s.irqPending && getFlag .i s.p
    agenda := []
    driver := .steps
    opcodeMap := OpcodeMap.standard }

end Sys2Proof.Machine
end

