-- ==== Sys2Proof/Machine/Step.lean ====
section
/-!
DEFINITION. Sys2Proof/Machine/Step.lean: one step of the machine, and the state that will fetch a given instruction
next. Both only call Machine/Engine.lean.
-/

namespace Sys2Proof.Machine

/-- One step: the machine's next move. -/
def step (s : State) : Host.Outcome State Fault Refusal := nextMove s

/-- `s` with the instruction word `w` of spec/opcode_table.json stored where `step` fetches its next instruction; it
stands for the loader's `rom_load` and `pc_load` (log entry 4). -/
def State.withFetchWord (s : State) (nbits w : Nat) : State := placeNext (tableBytes nbits w) s

end Sys2Proof.Machine
end

