-- ==== Sys2Proof/Safety.lean ====
section
/-!
DEFINITION. Sys2Proof/Safety.lean: what a sound state of the machine is, and the terms the statements use: what an
access, an interrupt entry or an instruction may change, and the spec's own tables written out from its text.
-/

namespace Sys2Proof.Machine

/-! ## States -/

/-- The invariant of the model: the memory is in its one canonical form, and every cell of it backs a byte of RAM or of
ROM (10_state R42, R43). -/
def Sound (s : State) : Prop := Memory.wf s.mem = true ∧ Memory.backed s.mem = true

/-- The driver's next request is a `step`, served in `u`, the engine is Running, and the poll takes no IRQ: the step
runs an instruction (60_exceptions R242, R244). -/
def ReadyToRun (s u : State) : Prop :=
  nextRequest s = (.step, u) ∧ s.faulted = false ∧ (s.irqPending = true → getFlag .i s.p = true)

/-- `t` differs from `s` at most in the recorded events and the draws: what reads of the bus may change. -/
def OnlyPorts (s t : State) : Prop := t = { s with events := t.events, draws := t.draws }

/-- Every bit of `q` but those of the flags `fs` is as in `p` (10_state R29). -/
def SameBitsBut (fs : List Flag) (p q : Byte) : Prop :=
  ∀ k < 8, (∀ f ∈ fs, f.bit ≠ k) → q.getLsbD k = p.getLsbD k

/-- What a completed write of `v` at bus address `ea` leaves, from `s` to `t` (20_memory R53): it is the bus write of
that byte there, with the one call or log record of that address; in RAM the one cell changes and nothing is recorded;
elsewhere no cell changes and one event is recorded; nothing else changes. -/
def WritesAt (ea : Word) (v : Byte) (s t : State) : Prop :=
  memWrite ea v s = .next t ∧ t = { s with mem := t.mem, events := t.events } ∧
    (∀ k, t.mem.read k = if ea.toNat < 0x2000 ∧ k = ea.toNat % 0x800 then v else s.mem.read k) ∧
    (if ea.toNat < 0x2000 then t.events = s.events else ∃ e, t.events = e :: s.events)

/-- The one write the model refuses: an OAM DMA whose source page is not RAM (20_memory R69, log entry 9). -/
def DmaRefused (ea : Word) (v : Byte) : Prop := ea.toNat = 0x4014 ∧ 0x20 ≤ v.toNat

/-- `t` is `s` after an interrupt entry (60_exceptions R246): the return address less one, low byte first, and the
status byte, on the stack; SP less three; I set; PC from the vector; no other register and no other byte changed. -/
def TakesInterrupt (vector : Word) (force : Bool) (s t : State) : Prop :=
  let p := if force then forceReserved s.p else s.p
  let lo := 0x100 + s.sp.toNat
  let hi := 0x100 + (s.sp - 1).toNat
  let st := 0x100 + (s.sp - 2).toNat
  t = { s with mem := t.mem, sp := s.sp - 3, p := putFlag .i true p, pc := t.pc } ∧
    t.pc = wordOf (s.mem.read (vector.toNat + 1)) (s.mem.read vector.toNat) ∧
    t.mem.read lo = loByte (s.pc - 1) ∧ t.mem.read hi = hiByte (s.pc - 1) ∧ t.mem.read st = p ∧
    ∀ k, k ≠ lo → k ≠ hi → k ≠ st → t.mem.read k = s.mem.read k

/-! ## Results of instructions -/

/-- `q` is `p` with Z and N written from the byte `v`, and no other bit changed (10_state R28). -/
def ZNFrom (v p q : Byte) : Prop :=
  getFlag .z q = decide (v = 0) ∧ getFlag .n q = v.getLsbD 7 ∧ SameBitsBut [.z, .n] p q

/-- Instruction `i` at `s` takes the operand value `m`, which leaves `u`, and completes in a state `t` for which `Q m u t`
holds. -/
def ValueResult (i : Instr) (s : State) (Q : Byte → State → State → Prop) : Prop :=
  ∃ m u t, operandValue i.operand s = some (m, u) ∧ OnlyPorts s u ∧ exec i s = .next t ∧ Q m u t

/-- Instruction `i` at `s` computes its effective address `ea`, which leaves `u`, and writes `v` there, nothing else:
it completes unless the write is the refused one. -/
def StoreResult (i : Instr) (s : State) (v : Byte) : Prop :=
  ∃ place ea u, i.operand = .memory place ∧ effectiveAddress place s = (ea, u) ∧ OnlyPorts s u ∧
    (¬ DmaRefused ea v → ∃ t, exec i s = .next t ∧ WritesAt ea v u t) ∧
    (DmaRefused ea v → exec i s = .refused (.oamDmaSourceNotRam v))

/-- Instruction `i` at `s` computes its effective address `ea`, reads the byte `old` there once, which leaves `w`, writes
`res old` there once, and leaves a status byte for which `F old` holds: it completes unless the write is the refused
one. -/
def ModifyResult (i : Instr) (s : State) (res : Byte → Byte) (F : Byte → Byte → Prop) : Prop :=
  ∃ place ea u old w, i.operand = .memory place ∧ effectiveAddress place s = (ea, u) ∧ memRead ea u = (old, w) ∧
    OnlyPorts s w ∧
    (¬ DmaRefused ea (res old) →
      ∃ t, exec i s = .next t ∧ WritesAt ea (res old) w { t with p := w.p } ∧ F old t.p) ∧
    (DmaRefused ea (res old) → exec i s = .refused (.oamDmaSourceNotRam (res old)))

/-- Pushes the bytes of a list, first to last (10_state R33). -/
def pushAll : List Byte → State → Host.Outcome State Fault Refusal
  | [], s => .next s
  | v :: rest, s => andThen (push v s) (pushAll rest)

/-- Pops `n` bytes, in the order popped (10_state R33). -/
def popMany : Nat → State → List Byte × State
  | 0, s => ([], s)
  | n + 1, s =>
    let (v, s) := pop s
    let (rest, s) := popMany n s
    (v :: rest, s)

/-! ## The spec's tables -/

/-- The table of 30_encoding R110, line by line: the modes of each mnemonic and their opcode bytes. -/
def opcodeTable : Mnemonic → List (Mode × Byte)
  | .lda => [(.imm, 0xA9), (.zp, 0xA5), (.zpx, 0xB5), (.abs, 0xAD), (.absx, 0xBD), (.absy, 0xB9), (.indx, 0xA1), (.indy, 0xB1)]
  | .ldx => [(.imm, 0xA2), (.zp, 0xA6), (.zpy, 0xB6), (.abs, 0xAE), (.absy, 0xBE)]
  | .ldy => [(.imm, 0xA0), (.zp, 0xA4), (.zpx, 0xB4), (.abs, 0xAC), (.absx, 0xBC)]
  | .sta => [(.zp, 0x85), (.zpx, 0x95), (.abs, 0x8D), (.absx, 0x9D), (.absy, 0x99), (.indx, 0x81), (.indy, 0x91)]
  | .stx => [(.zp, 0x86), (.zpy, 0x96), (.abs, 0x8E)]
  | .sty => [(.zp, 0x84), (.zpx, 0x94), (.abs, 0x8C)]
  | .adc => [(.imm, 0x69), (.zp, 0x65), (.zpx, 0x75), (.abs, 0x6D), (.absx, 0x7D), (.absy, 0x79), (.indx, 0x61), (.indy, 0x71)]
  | .sbc => [(.imm, 0xE9), (.zp, 0xE5), (.zpx, 0xF5), (.abs, 0xED), (.absx, 0xFD), (.absy, 0xF9), (.indx, 0xE1), (.indy, 0xF1)]
  | .and => [(.imm, 0x29), (.zp, 0x25), (.zpx, 0x35), (.abs, 0x2D), (.absx, 0x3D), (.absy, 0x39), (.indx, 0x21), (.indy, 0x31)]
  | .ora => [(.imm, 0x09), (.zp, 0x05), (.zpx, 0x15), (.abs, 0x0D), (.absx, 0x1D), (.absy, 0x19), (.indx, 0x01), (.indy, 0x11)]
  | .eor => [(.imm, 0x49), (.zp, 0x45), (.zpx, 0x55), (.abs, 0x4D), (.absx, 0x5D), (.absy, 0x59), (.indx, 0x41), (.indy, 0x51)]
  | .bit => [(.zp, 0x24), (.abs, 0x2C)]
  | .asl => [(.acc, 0x0A), (.zp, 0x06), (.zpx, 0x16), (.abs, 0x0E), (.absx, 0x1E)]
  | .lsr => [(.acc, 0x4A), (.zp, 0x46), (.zpx, 0x56), (.abs, 0x4E), (.absx, 0x5E)]
  | .rol => [(.acc, 0x2A), (.zp, 0x26), (.zpx, 0x36), (.abs, 0x2E), (.absx, 0x3E)]
  | .ror => [(.acc, 0x6A), (.zp, 0x66), (.zpx, 0x76), (.abs, 0x6E), (.absx, 0x7E)]
  | .cmp => [(.imm, 0xC9), (.zp, 0xC5), (.zpx, 0xD5), (.abs, 0xCD), (.absx, 0xDD), (.absy, 0xD9), (.indx, 0xC1), (.indy, 0xD1)]
  | .cpx => [(.imm, 0xE0), (.zp, 0xE4), (.abs, 0xEC)]
  | .cpy => [(.imm, 0xC0), (.zp, 0xC4), (.abs, 0xCC)]
  | .inc => [(.zp, 0xE6), (.zpx, 0xF6), (.abs, 0xEE), (.absx, 0xFE)]
  | .dec => [(.zp, 0xC6), (.zpx, 0xD6), (.abs, 0xCE), (.absx, 0xDE)]
  | .inx => [(.imp, 0xE8)]
  | .iny => [(.imp, 0xC8)]
  | .dex => [(.imp, 0xCA)]
  | .dey => [(.imp, 0x88)]
  | .tax => [(.imp, 0xAA)]
  | .txa => [(.imp, 0x8A)]
  | .tay => [(.imp, 0xA8)]
  | .tya => [(.imp, 0x98)]
  | .txs => [(.imp, 0x9A)]
  | .pha => [(.imp, 0x48)]
  | .pla => [(.imp, 0x68)]
  | .php => [(.imp, 0x08)]
  | .plp => [(.imp, 0x28)]
  | .sec => [(.imp, 0x38)]
  | .sei => [(.imp, 0x78)]
  | .clc => [(.imp, 0x18)]
  | .cld => [(.imp, 0xD8)]
  | .beq => [(.rel, 0xF0)]
  | .bne => [(.rel, 0xD0)]
  | .bmi => [(.rel, 0x30)]
  | .bpl => [(.rel, 0x10)]
  | .bcs => [(.rel, 0xB0)]
  | .bcc => [(.rel, 0x90)]
  | .bvc => [(.rel, 0x50)]
  | .jmp => [(.abs, 0x4C), (.ind, 0x6C)]
  | .jsr => [(.abs, 0x20)]
  | .rts => [(.imp, 0x60)]
  | .rti => [(.imp, 0x40)]
  | .brk => [(.imp, 0x00)]

/-- The 111 illegal opcode bytes, as 30_encoding R113 lists them. -/
def illegalOpcodes : List Byte := [
  0x02, 0x03, 0x04, 0x07, 0x0B, 0x0C, 0x0F, 0x12, 0x13, 0x14, 0x17, 0x1A, 0x1B, 0x1C, 0x1F, 0x22, 0x23, 0x27,
  0x2B, 0x2F, 0x32, 0x33, 0x34, 0x37, 0x3A, 0x3B, 0x3C, 0x3F, 0x42, 0x43, 0x44, 0x47, 0x4B, 0x4F, 0x52, 0x53,
  0x54, 0x57, 0x58, 0x5A, 0x5B, 0x5C, 0x5F, 0x62, 0x63, 0x64, 0x67, 0x6B, 0x6F, 0x70, 0x72, 0x73, 0x74, 0x77,
  0x7A, 0x7B, 0x7C, 0x7F, 0x80, 0x82, 0x83, 0x87, 0x89, 0x8B, 0x8F, 0x92, 0x93, 0x97, 0x9B, 0x9C, 0x9E, 0x9F,
  0xA3, 0xA7, 0xAB, 0xAF, 0xB2, 0xB3, 0xB7, 0xB8, 0xBA, 0xBB, 0xBF, 0xC2, 0xC3, 0xC7, 0xCB, 0xCF, 0xD2, 0xD3,
  0xD4, 0xD7, 0xDA, 0xDB, 0xDC, 0xDF, 0xE2, 0xE3, 0xE7, 0xEA, 0xEB, 0xEF, 0xF2, 0xF3, 0xF4, 0xF7, 0xF8, 0xFA,
  0xFB, 0xFC, 0xFF]

/-- Who writes each flag of `P`, as the table of 10_state R29 lists them. -/
def flagWriters : Flag → List Mnemonic
  | .c => [
      .adc, .sbc, .asl, .lsr, .rol, .ror, .cmp, .cpx, .cpy, .sec, .clc, .plp, .rti]
  | .z => [
      .lda, .ldx, .ldy, .adc, .sbc, .and, .ora, .eor, .bit, .asl, .lsr, .cmp, .cpx, .cpy, .inc, .dec, .inx,
      .iny, .dex, .dey, .tax, .txa, .tay, .tya, .pla, .plp, .rti]
  | .i => [
      .sei, .brk, .plp, .rti]
  | .d => [
      .cld, .plp, .rti]
  | .v => [
      .adc, .sbc, .bit, .plp, .rti]
  | .n => [
      .lda, .ldx, .ldy, .adc, .sbc, .and, .ora, .eor, .bit, .rol, .ror, .cmp, .cpx, .cpy, .inc, .dec, .inx,
      .iny, .dex, .dey, .tax, .txa, .tay, .tya, .pla, .plp, .rti]

/-- Who writes the reserved bits `P[4]` and `P[5]` (10_state R29). -/
def reservedWriters : List Mnemonic := [.php, .brk, .plp, .rti]

/-- The instructions that write the accumulator (10_state R21): the shifts in their accumulator form only. -/
def writesA (i : Instr) : Bool :=
  [.lda, .adc, .sbc, .and, .ora, .eor, .txa, .tya, .pla].contains i.mnemonic ||
    ([.asl, .lsr, .rol, .ror].contains i.mnemonic && i.mode == .acc)

/-- The mnemonics that write X (10_state R22). -/
def xWriters : List Mnemonic := [.ldx, .inx, .dex, .tax]

/-- The mnemonics that write Y (10_state R23). -/
def yWriters : List Mnemonic := [.ldy, .iny, .dey, .tay]

/-- The mnemonics that write SP: those that push or pop, and TXS (10_state R24). -/
def spWriters : List Mnemonic := [.txs, .pha, .pla, .php, .plp, .jsr, .rts, .rti, .brk]

/-- The mnemonics that write PC besides the fetch (10_state R25). -/
def pcWriters : List Mnemonic := [.beq, .bne, .bmi, .bpl, .bcs, .bcc, .bvc, .jmp, .jsr, .rts, .rti, .brk]

/-- The instructions that write a byte on the bus: the stores, the memory forms that modify, and the pushes. -/
def writesBus (i : Instr) : Bool :=
  [.sta, .stx, .sty, .inc, .dec, .pha, .php, .jsr, .brk].contains i.mnemonic ||
    ([.asl, .lsr, .rol, .ror].contains i.mnemonic && i.mode != .acc)

end Sys2Proof.Machine
end

