-- ==== Sys2Proof/Certificates/Slice0/Obligations.lean ====
section
/-!
DEFINITION. Sys2Proof/Certificates/Slice0/Obligations.lean: the statements for the provers, each with its text and the
rules or sections of the spec it formalises. The terms are those of Sys2Proof/Safety.lean.
-/

open Sys2Proof Sys2Proof.Machine

/-- O1, tier 1, derived. Each byte string of the list, one or more of every family and of every addressing mode,
written out from the tables of 30_encoding (R110, R115), decodes whole to the instruction it stands for. The
opcode bytes are the default of the open parameter OPCODE_MAP (D7, log entry 1). -/
def Obligations.DecodesTheSpecsWords : Prop :=
  ∀ w ∈ ([([0xE8], .inx), ([0x0A], .aslAcc), ([0xA9, 0x11], .ldaImm 0x11), ([0xA5, 0x10], .ldaZp 0x10),
      ([0xB5, 0x10], .ldaZpx 0x10), ([0xB6, 0x10], .ldxZpy 0x10), ([0x20, 0x34, 0x12], .jsr 0x1234),
      ([0x9D, 0x00, 0x02], .staAbsx 0x0200), ([0xB9, 0x00, 0x02], .ldaAbsy 0x0200), ([0xA1, 0x10], .ldaIndx 0x10),
      ([0x91, 0x10], .staIndy 0x10), ([0x6C, 0xFF, 0x12], .jmpInd 0x12FF), ([0xD0, 0xFE], .bne 0xFE),
      ([0x69, 0x22], .adcImm 0x22), ([0x29, 0x82], .andImm 0x82), ([0x7E, 0x00, 0x03], .rorAbsx 0x0300),
      ([0xCC, 0x00, 0x03], .cpyAbs 0x0300), ([0xC6, 0x10], .decZp 0x10), ([0x9A], .txs), ([0x28], .plp),
      ([0xD8], .cld), ([0x00], .brk)] : List (List Byte × Instr)),
    decode w.1 = .ok (w.2, [])

/-- O2, tier 1, derived. A mnemonic, a mode and an opcode byte stand together in the table of R110 exactly when the
default map gives that pair for that byte; a byte has no row exactly when R113 lists it as illegal; and the form
of each row makes instructions of that mnemonic and mode. The map is the default of the open parameter
OPCODE_MAP (D7, log entry 1). -/
def Obligations.TheOpcodeMapIsTheTable : Prop :=
  (∀ (m : Mnemonic) (md : Mode) (b : Byte), (md, b) ∈ opcodeTable m ↔ OpcodeMap.standard.row b = some (m, md)) ∧
    (∀ b : Byte, OpcodeMap.standard.row b = none ↔ b ∈ illegalOpcodes) ∧
    ∀ (b : Byte) (m : Mnemonic) (md : Mode), OpcodeMap.standard.row b = some (m, md) →
      ∃ f, OpcodeMap.standard.form b = .ok f ∧ f.row = (m, md)

/-- O3, tier 3, derived. For every instruction, every operand value and every list of bytes after it: the
instruction is well formed, and decoding its encoding followed by those bytes gives the instruction and those
bytes. The opcode bytes are the default of OPCODE_MAP (D7, log entry 1). -/
def Obligations.DecodeOfEncodeIsTheInstruction : Prop :=
  ∀ (i : Instr) (rest : List Byte), i.wellFormed = true ∧ decode (encode i ++ rest) = .ok (i, rest)

/-- O4, tier 2, derived. If a list of bytes decodes to an instruction with bytes left over, the list is the encoding
of that instruction followed by those bytes. Decoder and encoder are those of the default of OPCODE_MAP (D7, log
entry 1); under a map that gives two bytes one row an instruction has two encodings. -/
def Obligations.DecodedBytesAreTheEncoding : Prop :=
  ∀ (bytes : List Byte) (i : Instr) (rest : List Byte), decode bytes = .ok (i, rest) → bytes = encode i ++ rest

/-- O5, tier 2, stated. Under every opcode map, when bytes decode to an instruction, its mnemonic and mode are those
the map gives the first byte, and the bytes used are 1 for implied and accumulator, 3 for absolute, absolute,X,
absolute,Y and absolute indirect, 2 for every other mode. When the opcode fetched has no row, only the opcode
byte is fetched. -/
def Obligations.LengthIsDecidedByTheOpcodeAlone : Prop :=
  (∀ (m : OpcodeMap) (bytes : List Byte) (i : Instr) (rest : List Byte), decodeWith m bytes = .ok (i, rest) →
      ∃ opc tail, bytes = opc :: tail ∧ m.row opc = some (i.mnemonic, i.mode) ∧
        bytes.length = rest.length +
          (if i.mode ∈ [Mode.imp, .acc] then 1 else if i.mode ∈ [Mode.abs, .absx, .absy, .ind] then 3 else 2)) ∧
    ∀ s : State, s.opcodeMap.row (fetch s).1 = none →
      fetchInstr s = (.error (.illegalOpcode (fetch s).1), (fetch s).2)

/-- O6, tier 1, stated. For every byte v and status byte p: after SetZN(v), Z is 1 exactly when v is 0, N is bit 7
of v, and every other bit of p is unchanged. -/
def Obligations.SetZNWritesZeroAndNegative : Prop :=
  ∀ v p : Byte, getFlag .z (setZN v p) = decide (v = 0) ∧ getFlag .n (setZN v p) = v.getLsbD 7 ∧
    SameBitsBut [.z, .n] p (setZN v p)

/-- O7, tier 2, derived. In every sound state a push completes: RAM[0x100 + SP] holds the byte, every other cell of
memory is as before, SP is one less (0x00 wraps to 0xFF), and no other field changes (R31). -/
def Obligations.PushWritesThenDecrements : Prop :=
  ∀ (v : Byte) (s : State), Sound s →
    ∃ t, push v s = .next t ∧ t = { s with mem := t.mem, sp := t.sp } ∧ t.sp.toNat = (s.sp.toNat + 255) % 256 ∧
      ∀ k, t.mem.read k = if k = 0x100 + s.sp.toNat then v else s.mem.read k

/-- O8, tier 1, stated. In every state a pop yields RAM[0x100 + SP'] for SP' = (SP + 1) mod 256 and leaves the state
as it was but for SP, which is SP'; so with SP = 0xFF it reads 0x0100 and leaves SP = 0x00. -/
def Obligations.PopIncrementsThenReads : Prop :=
  ∀ s : State, ∃ sp : Byte, sp.toNat = (s.sp.toNat + 1) % 256 ∧
    pop s = (s.mem.read (0x100 + sp.toNat), { s with sp := sp }) ∧
    (s.sp = 0xFF → pop s = (s.mem.read 0x100, { s with sp := 0x00 }))

/-- O9, tier 2, derived. From every sound state, pushing a list of at most 256 bytes completes, and popping as many
bytes then yields them in reverse order and returns SP to its value (R33). -/
def Obligations.PopsReturnThePushesReversed : Prop :=
  ∀ (bytes : List Byte) (s : State), Sound s → bytes.length ≤ 256 →
    ∃ t u, pushAll bytes s = .next t ∧ popMany bytes.length t = (bytes.reverse, u) ∧ u.sp = s.sp

/-- O10, tier 2, stated. From every sound state, pushing a return address r leaves its low byte at 0x0100 + s and
its high byte at 0x0100 + ((s - 1) mod 256), s being SP before the first push, and every other cell as before;
popping a return address then pops the high byte first and the low byte second, and yields r plus one with SP
restored. -/
def Obligations.ReturnAddressLayoutOnTheStack : Prop :=
  ∀ (r : Word) (s : State), Sound s →
    ∃ t, pushAddress r s = .next t ∧ t = { s with mem := t.mem, sp := s.sp - 2 } ∧
      (∀ k, t.mem.read k =
        if k = 0x100 + s.sp.toNat then loByte r
        else if k = 0x100 + (s.sp.toNat + 255) % 256 then hiByte r else s.mem.read k) ∧
      (pop t).1 = hiByte r ∧ (pop (pop t).2).1 = loByte r ∧ popAddress t = (r + 1, { t with sp := s.sp })

/-- O11, tier 2, stated. An access below 0x2000 reads RAM[addr mod 0x0800] and changes nothing; a write there
changes that one RAM byte and nothing else, and it is read back at each of its mirrors. -/
def Obligations.RamIsMirrored : Prop :=
  ∀ (addr : Word) (s : State), addr.toNat < 0x2000 →
    memRead addr s = (s.mem.read (addr.toNat % 0x800), s) ∧
    ∀ v : Byte, Sound s → ∃ t, memWrite addr v s = .next t ∧ t = { s with mem := t.mem } ∧
      (∀ k, t.mem.read k = if k = addr.toNat % 0x800 then v else s.mem.read k) ∧
      ∀ b : Word, b.toNat < 0x2000 → b.toNat % 0x800 = addr.toNat % 0x800 → memRead b t = (v, t)

/-- O12, tier 2, stated. When an image of 32768 bytes is loaded before the first step, every address from 0x8000 on
then reads byte addr - 0x8000 of it, without a side effect; and in every state such a read yields the ROM byte
and leaves the state as it is. -/
def Obligations.RomReadsTheLoadedImage : Prop :=
  (∀ (addr : Word) (s : State), 0x8000 ≤ addr.toNat → memRead addr s = (s.mem.read addr.toNat, s)) ∧
    ∀ (image : List Byte) (s : State), image.length = 0x8000 → s.started = false →
      ∃ t, serve (.romLoad image) s = .next t ∧
        ∀ addr : Word, 0x8000 ≤ addr.toNat → memRead addr t = (image.getD (addr.toNat - 0x8000) 0, t)

/-- O13, tier 1, stated. For every address in 0x4018 to 0x7FFF: a read yields 0x00 and changes nothing but the log,
a write changes nothing but the log, and neither sets Fault. -/
def Obligations.UnmappedAccessesAreSoftFailures : Prop :=
  ∀ (addr : Word) (s : State), 0x4018 ≤ addr.toNat → addr.toNat ≤ 0x7FFF →
    memRead addr s = (0x00, { s with events := .softRead addr :: s.events }) ∧
    ∀ v : Byte, memWrite addr v s = .next { s with events := .softWrite addr v :: s.events }

/-- O14, tier 1, derived. A write to ROM, a read of graphics index 0, 1, 3, 4, 5 or 6, a write of graphics index 2
or 4, and a read of 0x4000 to 0x4014 or of 0x4017 each change nothing but the log; the reads yield 0x00 (R58,
R63, R71, decisions D22 to D24 of the spec). -/
def Obligations.UnlistedAccessesAreSoftFailures : Prop :=
  ∀ (addr : Word) (s : State),
    (0x2000 ≤ addr.toNat → addr.toNat < 0x4000 → addr.toNat % 8 ∈ [0, 1, 3, 4, 5, 6] →
      memRead addr s = (0x00, { s with events := .softRead addr :: s.events })) ∧
    (0x4000 ≤ addr.toNat → addr.toNat ≤ 0x4014 ∨ addr.toNat = 0x4017 →
      memRead addr s = (0x00, { s with events := .softRead addr :: s.events })) ∧
    ∀ v : Byte,
      (0x8000 ≤ addr.toNat → memWrite addr v s = .next { s with events := .softWrite addr v :: s.events }) ∧
      (0x2000 ≤ addr.toNat → addr.toNat < 0x4000 → addr.toNat % 8 ∈ [2, 4] →
        memWrite addr v s = .next { s with events := .softWrite addr v :: s.events })

/-- O15, tier 1, derived. For every address of the graphics window with index 0, 1, 3, 5, 6 or 7 a write is one call
of that index's write port, and for every address 0x4000 to 0x4013 one call of the channel write with addr -
0x4000; nothing else changes (R61, R65). The indices are the spec's decision D23. -/
def Obligations.GraphicsAndChannelWritesAreOneCall : Prop :=
  ∀ (addr : Word) (v : Byte) (s : State),
    (∀ r e, (r, e) ∈ ([(0, .gfxWriteControl v), (1, .gfxWriteMask v), (3, .gfxWriteOamAddr v), (5, .gfxWriteScroll v),
          (6, .gfxWriteAddr v), (7, .gfxWriteData v)] : List (Nat × Event)) →
        0x2000 ≤ addr.toNat → addr.toNat < 0x4000 → addr.toNat % 8 = r →
        memWrite addr v s = .next { s with events := e :: s.events }) ∧
    (0x4000 ≤ addr.toNat → addr.toNat ≤ 0x4013 →
      memWrite addr v s = .next { s with events := .sndChannelWrite (addr.toNat - 0x4000) v :: s.events })

/-- O16, tier 1, derived. A read of 0x4015 is one call of the sound status read and yields the byte returned, a
write there one call of the status write; a read of 0x4016 is one call of the input read and yields the byte
returned, a write there one call of the input write; a write of 0x4017 is one call of the frame counter write
(R66, R67, R70). That the byte returned is the next free value, and that the draws then go up by one, is the
model's choice (D31, log entry 5). Nothing else of the core changes. -/
def Obligations.StatusAndInputPortsAreOneCall : Prop :=
  ∀ s : State,
    memRead 0x4015 s = (Config.freeByte s.draws,
      { s with draws := s.draws + 1, events := .sndStatusRead (Config.freeByte s.draws) :: s.events }) ∧
    memRead 0x4016 s = (Config.freeByte s.draws,
      { s with draws := s.draws + 1, events := .inputRead (Config.freeByte s.draws) :: s.events }) ∧
    ∀ v : Byte, memWrite 0x4015 v s = .next { s with events := .sndStatusWrite v :: s.events } ∧
      memWrite 0x4016 v s = .next { s with events := .inputWrite v :: s.events } ∧
      memWrite 0x4017 v s = .next { s with events := .sndFrameCounterWrite v :: s.events }

/-- O17, tier 2, derived. For every address and state: a read changes at most the recorded events and the draws; it
takes exactly one answer, the next free value (R72, D31, log entry 5), at graphics indices 2 and 7, 0x4015 and
0x4016, and none elsewhere; the call at index 2 is the graphics status read, at index 7 the graphics data read,
each with that answer, in front of the older events; in RAM and ROM a read records nothing, elsewhere exactly
one event, in front of the older ones (R50, R62, R80). -/
def Obligations.EveryReadAsksAPortAtMostOnce : Prop :=
  ∀ (addr : Word) (s : State), OnlyPorts s (memRead addr s).2 ∧
    (if 0x2000 ≤ addr.toNat ∧ addr.toNat < 0x4000 ∧ addr.toNat % 8 ∈ [2, 7] ∨ addr.toNat ∈ [0x4015, 0x4016] then
        (memRead addr s).2.draws = s.draws + 1 ∧ (memRead addr s).1 = Config.freeByte s.draws
      else (memRead addr s).2.draws = s.draws) ∧
    (0x2000 ≤ addr.toNat → addr.toNat < 0x4000 →
      (addr.toNat % 8 = 2 → (memRead addr s).2.events = .gfxReadStatus (Config.freeByte s.draws) :: s.events) ∧
      (addr.toNat % 8 = 7 → (memRead addr s).2.events = .gfxReadData (Config.freeByte s.draws) :: s.events)) ∧
    (if addr.toNat < 0x2000 ∨ 0x8000 ≤ addr.toNat then (memRead addr s).2.events = s.events
      else ∃ e, (memRead addr s).2.events = e :: s.events)

/-- O18, tier 2, derived. For every v up to 0x1F a write of v to 0x4014 records one OAM DMA call of 256 bytes, byte
i being RAM[(v * 256 + i) mod 0x0800], and changes nothing else (R68). That the pages 0x08 to 0x1F read the
mirrors of RAM is the spec's own decision (R69, D25, log entry 13). -/
def Obligations.OamDmaCopiesThePageInOrder : Prop :=
  ∀ (v : Byte) (s : State), v.toNat ≤ 0x1F →
    ∃ bytes : List Byte, memWrite 0x4014 v s = .next { s with events := .gfxOamDma bytes :: s.events } ∧
      bytes.length = 256 ∧ ∀ i < 256, bytes.getD i 0 = s.mem.read ((v.toNat * 256 + i) % 0x800)

/-- O19, tier 2, stated. An instruction of one of the three zero-page modes is its opcode byte and one operand byte
d, and its effective address is d, (d + X) mod 256 or (d + Y) mod 256; one of the absolute mode is its opcode
byte, lo and hi, and its effective address is lo + hi * 256; computing the address changes nothing. The zero
page,Y mode is used by LDX and STX only. The address is the jump target of JMP and JSR: PC after JMP, and after
a JSR that completes, is it. -/
def Obligations.DirectModesAddressesAreExact : Prop :=
  (∀ (opc d : Byte) (i : Instr), decode [opc, d] = .ok (i, []) →
      (i.mode = .zp → i.operand = .memory (.zp d)) ∧ (i.mode = .zpx → i.operand = .memory (.zpx d)) ∧
      (i.mode = .zpy → i.operand = .memory (.zpy d) ∧ (i.mnemonic = .ldx ∨ i.mnemonic = .stx))) ∧
    (∀ (bytes : List Byte) (i : Instr), decode bytes = .ok (i, []) →
      (i.mode ∈ [Mode.zp, .zpx, .zpy] → bytes.length = 2) ∧ (i.mode = .abs → bytes.length = 3)) ∧
    (∀ (d : Byte) (s : State),
      (∃ ea : Word, effectiveAddress (.zp d) s = (ea, s) ∧ ea.toNat = d.toNat) ∧
      (∃ ea : Word, effectiveAddress (.zpx d) s = (ea, s) ∧ ea.toNat = (d.toNat + s.x.toNat) % 256) ∧
      (∃ ea : Word, effectiveAddress (.zpy d) s = (ea, s) ∧ ea.toNat = (d.toNat + s.y.toNat) % 256)) ∧
    (∀ (opc lo hi : Byte) (i : Instr), decode [opc, lo, hi] = .ok (i, []) → i.mode = .abs →
      ∃ ea : Word, i.operand = .memory (.abs ea) ∧ ea.toNat = lo.toNat + hi.toNat * 256 ∧
        ∀ s, effectiveAddress (.abs ea) s = (ea, s)) ∧
    ∀ (ea : Word) (s : State), exec (.jmpAbs ea) s = .next { s with pc := ea } ∧
      ∀ t, exec (.jsr ea) s = .next t → t.pc = ea

/-- O20, tier 2, derived. The effective address is (a + X) mod 65536, (a + Y) mod 65536; for (zp,X) the word at RAM
addresses d + X and d + X + 1, neither reduced mod 256; for (zp),Y the word at d and d + 1, the latter not
reduced, plus Y mod 65536; computing it changes nothing (R103 to R106, decisions D15 to D17 of the spec). -/
def Obligations.IndexedAndIndirectAddressesAreExact : Prop :=
  (∀ (a : Word) (s : State),
      (∃ ea : Word, effectiveAddress (.absx a) s = (ea, s) ∧ ea.toNat = (a.toNat + s.x.toNat) % 65536) ∧
      (∃ ea : Word, effectiveAddress (.absy a) s = (ea, s) ∧ ea.toNat = (a.toNat + s.y.toNat) % 65536)) ∧
    ∀ (d : Byte) (s : State),
      (∃ ea : Word, effectiveAddress (.indx d) s = (ea, s) ∧
        ea.toNat = (s.mem.read (d.toNat + s.x.toNat)).toNat + (s.mem.read (d.toNat + s.x.toNat + 1)).toNat * 256) ∧
      (∃ ea : Word, effectiveAddress (.indy d) s = (ea, s) ∧
        ea.toNat = ((s.mem.read d.toNat).toNat + (s.mem.read (d.toNat + 1)).toNat * 256 + s.y.toNat) % 65536)

/-- O21, tier 2, stated. JMP is the only mnemonic with this mode; its pointer is the operand word, low byte fetched
first. For every pointer, the low target byte is one bus read at the pointer, and the high target byte one bus
read at the address with the same high byte and the low byte plus one mod 256; at a pointer whose low byte is
not 0xFF that is the pointer plus one. -/
def Obligations.IndirectJumpStaysInThePointersPage : Prop :=
  (∀ (a b : Word) (s : State), b.toNat = a.toNat / 256 * 256 + (a.toNat % 256 + 1) % 256 →
      effectiveAddress (.ind a) s =
        (wordOf (memRead b (memRead a s).2).1 (memRead a s).1, (memRead b (memRead a s).2).2)) ∧
    (∀ a : Word, ∃ b : Word, b.toNat = a.toNat / 256 * 256 + (a.toNat % 256 + 1) % 256 ∧
      (a.toNat % 256 ≠ 0xFF → b = a + 1)) ∧
    ∀ (bytes : List Byte) (i : Instr), decode bytes = .ok (i, []) → i.mode = .ind →
      i.mnemonic = .jmp ∧ ∃ (opc lo hi : Byte) (a : Word), bytes = [opc, lo, hi] ∧
        i.operand = .memory (.ind a) ∧ a.toNat = lo.toNat + hi.toNat * 256

/-- O22, tier 1, derived. The accumulator mode delivers A and the immediate mode its byte, with nothing changed; a
memory mode delivers what one bus read at its effective address yields, in the state after the pointer reads;
and every value-style mnemonic has an operand value in each of its modes (R94 to R98). -/
def Obligations.OperandValueIsTheLiteralOrOneRead : Prop :=
  (∀ s : State, operandValue .accumulator s = some (s.a, s)) ∧
    (∀ (d : Byte) (s : State), operandValue (.immediate d) s = some (d, s)) ∧
    (∀ (place : Place) (s : State), operandValue (.memory place) s =
      some (memRead (effectiveAddress place s).1 (effectiveAddress place s).2)) ∧
    ∀ (i : Instr) (s : State),
      i.mnemonic ∈ [Mnemonic.lda, .ldx, .ldy, .adc, .sbc, .and, .ora, .eor, .bit, .cmp, .cpx, .cpy] →
      (operandValue i.operand s).isSome = true

/-- O23, tier 2, derived. For every form and state, the instruction completes: A (X, Y) is the operand value, Z and
N are from it, every other bit of P and every other register and byte of memory is unchanged, and the only other
change is what reading the operand records (R130 to R132; that LDX and LDY write Z and N is the spec's decision
D9). -/
def Obligations.LoadsFillTheirRegister : Prop :=
  ∀ (i : Instr) (s : State),
    (i.mnemonic = .lda → ValueResult i s fun m u t => t = { u with a := m, p := t.p } ∧ ZNFrom m s.p t.p) ∧
    (i.mnemonic = .ldx → ValueResult i s fun m u t => t = { u with x := m, p := t.p } ∧ ZNFrom m s.p t.p) ∧
    (i.mnemonic = .ldy → ValueResult i s fun m u t => t = { u with y := m, p := t.p } ∧ ZNFrom m s.p t.p)

/-- O24, tier 2, derived. In every sound state, the store computes its effective address without reading it and
writes the register there: in RAM that one byte changes, elsewhere the one call or log record of the bus write
of that byte at that address is recorded (R53, R61, R65 to R70), and no register, flag or other byte changes. It
completes but for the write of a page of 0x20 or more to 0x4014, which the model refuses (R133 to R135, R53; log
entry 9). -/
def Obligations.StoresWriteOneByte : Prop :=
  ∀ (i : Instr) (s : State), Sound s →
    (i.mnemonic = .sta → StoreResult i s s.a) ∧ (i.mnemonic = .stx → StoreResult i s s.x) ∧
    (i.mnemonic = .sty → StoreResult i s s.y)

/-- O25, tier 2, derived. For every form and state, ADC completes with A + 256 * C equal to the operand plus the old
A plus the old C, V set exactly when the operand's bit 7 is 0 and the result's is 1, Z and N from the result,
and no other bit of P and nothing else changed; D plays no part (R140 to R142, decisions D11 and D12 of the
spec). -/
def Obligations.AdcAddsWithCarry : Prop :=
  ∀ (i : Instr) (s : State), i.mnemonic = .adc → ValueResult i s fun m u t =>
    t = { u with a := t.a, p := t.p } ∧
    t.a.toNat + 256 * (getFlag .c t.p).toNat = m.toNat + s.a.toNat + (getFlag .c s.p).toNat ∧
    getFlag .v t.p = (!m.getLsbD 7 && t.a.getLsbD 7) ∧ getFlag .z t.p = decide (t.a = 0) ∧
    getFlag .n t.p = t.a.getLsbD 7 ∧ SameBitsBut [.c, .v, .z, .n] s.p t.p

/-- O26, tier 2, derived. For every form and state, SBC completes with A plus the operand plus the borrow in equal
to the old A plus 256 times the borrow out, where borrow is 1 - C; V is set exactly when the operand's bit 7 is
0 and the result's is 1; Z and N are from the result; nothing else changes (R142, R143, decisions D11 and D12 of
the spec). -/
def Obligations.SbcSubtractsWithBorrow : Prop :=
  ∀ (i : Instr) (s : State), i.mnemonic = .sbc → ValueResult i s fun m u t =>
    t = { u with a := t.a, p := t.p } ∧
    t.a.toNat + m.toNat + (!getFlag .c s.p).toNat = s.a.toNat + 256 * (!getFlag .c t.p).toNat ∧
    getFlag .v t.p = (!m.getLsbD 7 && t.a.getLsbD 7) ∧ getFlag .z t.p = decide (t.a = 0) ∧
    getFlag .n t.p = t.a.getLsbD 7 ∧ SameBitsBut [.c, .v, .z, .n] s.p t.p

/-- O27, tier 2, derived. For every form and state the instruction completes: bit k of A is the and, or or
exclusive-or of bit k of the old A and of the operand, Z and N are from the result, and nothing else changes
(R150 to R152; ORA and EOR are from the standard meaning the spec supplies). -/
def Obligations.LogicCombinesBitwise : Prop :=
  ∀ (i : Instr) (s : State) (op : Bool → Bool → Bool),
    (i.mnemonic, op) ∈ [(Mnemonic.and, (· && ·)), (.ora, (· || ·)), (.eor, Bool.xor)] →
    ValueResult i s fun m u t => t = { u with a := t.a, p := t.p } ∧
      (∀ k < 8, t.a.getLsbD k = op (s.a.getLsbD k) (m.getLsbD k)) ∧ ZNFrom t.a s.p t.p

/-- O28, tier 2, derived. For both forms and every state BIT completes: Z is 1 exactly when no bit is set in both A
and the operand, N is the operand's bit 7, V its bit 6; no other bit of P and nothing else changes (R153,
decision D10 of the spec). -/
def Obligations.BitTestsWithoutWritingA : Prop :=
  ∀ (i : Instr) (s : State), i.mnemonic = .bit → ValueResult i s fun m u t =>
    t = { u with p := t.p } ∧ (getFlag .z t.p = true ↔ ∀ k < 8, ¬ (s.a.getLsbD k = true ∧ m.getLsbD k = true)) ∧
    getFlag .n t.p = m.getLsbD 7 ∧ getFlag .v t.p = m.getLsbD 6 ∧ SameBitsBut [.z, .n, .v] s.p t.p

/-- O29, tier 2, derived. For every form and state the compare completes: on unsigned bytes C is 1 exactly when the
register is at least the operand, Z exactly when they are equal, N exactly when the register is less, so N is
the inverse of C; no other bit of P, no register and no byte of memory changes (R170 to R173, decision D14 of
the spec). -/
def Obligations.ComparesSetCarryZeroNegative : Prop :=
  ∀ (i : Instr) (s : State) (reg : Byte),
    (i.mnemonic, reg) ∈ [(Mnemonic.cmp, s.a), (.cpx, s.x), (.cpy, s.y)] → ValueResult i s fun m u t =>
      t = { u with p := t.p } ∧ (getFlag .c t.p = true ↔ m.toNat ≤ reg.toNat) ∧
      (getFlag .z t.p = true ↔ reg = m) ∧ (getFlag .n t.p = true ↔ reg.toNat < m.toNat) ∧
      getFlag .n t.p = !getFlag .c t.p ∧ SameBitsBut [.c, .z, .n] s.p t.p

/-- O30, tier 2, derived. Each accumulator form completes in every state: A is shifted by one place, bit 0 (bit 7)
taking 0 for the shifts and the old C for the rotates, C is the bit shifted out, ASL and LSR write Z and leave
N, ROL and ROR write N and leave Z; nothing else changes (R160, R162, R164, R166, R168, decision D13 of the
spec). -/
def Obligations.AccumulatorShiftsWriteTwoFlags : Prop :=
  ∀ s : State,
    (∃ t, exec .aslAcc s = .next t ∧ t = { s with a := t.a, p := t.p } ∧ t.a = s.a <<< 1 ∧
      getFlag .c t.p = s.a.getLsbD 7 ∧ getFlag .z t.p = decide (t.a = 0) ∧ SameBitsBut [.c, .z] s.p t.p) ∧
    (∃ t, exec .lsrAcc s = .next t ∧ t = { s with a := t.a, p := t.p } ∧ t.a = s.a >>> 1 ∧
      getFlag .c t.p = s.a.getLsbD 0 ∧ getFlag .z t.p = decide (t.a = 0) ∧ SameBitsBut [.c, .z] s.p t.p) ∧
    (∃ t, exec .rolAcc s = .next t ∧ t = { s with a := t.a, p := t.p } ∧
      (∀ k < 8, t.a.getLsbD k = if k = 0 then getFlag .c s.p else s.a.getLsbD (k - 1)) ∧
      getFlag .c t.p = s.a.getLsbD 7 ∧ getFlag .n t.p = t.a.getLsbD 7 ∧ SameBitsBut [.c, .n] s.p t.p) ∧
    (∃ t, exec .rorAcc s = .next t ∧ t = { s with a := t.a, p := t.p } ∧
      (∀ k < 8, t.a.getLsbD k = if k = 7 then getFlag .c s.p else s.a.getLsbD (k + 1)) ∧
      getFlag .c t.p = s.a.getLsbD 0 ∧ getFlag .n t.p = t.a.getLsbD 7 ∧ SameBitsBut [.c, .n] s.p t.p)

/-- O31, tier 2, derived. In every sound state each memory form reads its effective address once, writes the byte
shifted by one place there once (as the bus write of R53, with its one call or log record outside RAM, R61, R65
to R70), and writes the same flags as the accumulator form; no other bit of P, no register and no other byte
changes. It completes but for the refused OAM DMA (R160, R161, R163, R165, R167, R169, decisions D13 and D26;
log entry 9). -/
def Obligations.MemoryShiftsReadAndWriteOnce : Prop :=
  ∀ (i : Instr) (s : State), Sound s → i.mode ≠ .acc →
    (i.mnemonic = .asl → ModifyResult i s (· <<< 1) fun old q =>
      getFlag .c q = old.getLsbD 7 ∧ getFlag .z q = decide (old <<< 1 = 0) ∧ SameBitsBut [.c, .z] s.p q) ∧
    (i.mnemonic = .lsr → ModifyResult i s (· >>> 1) fun old q =>
      getFlag .c q = old.getLsbD 0 ∧ getFlag .z q = decide (old >>> 1 = 0) ∧ SameBitsBut [.c, .z] s.p q) ∧
    (i.mnemonic = .rol → ModifyResult i s (fun old => old <<< 1 ||| BitVec.setWidth 8 (BitVec.ofBool (getFlag .c s.p)))
      fun old q => getFlag .c q = old.getLsbD 7 ∧ getFlag .n q = old.getLsbD 6 ∧ SameBitsBut [.c, .n] s.p q) ∧
    (i.mnemonic = .ror → ModifyResult i s
      (fun old => old >>> 1 ||| BitVec.setWidth 8 (BitVec.ofBool (getFlag .c s.p)) <<< 7)
      fun old q => getFlag .c q = old.getLsbD 0 ∧ getFlag .n q = getFlag .c s.p ∧ SameBitsBut [.c, .n] s.p q)

/-- O32, tier 2, derived. In every sound state INC (DEC) reads its effective address once, writes the byte plus
(minus) one mod 256 there once (as the bus write of R53, with its one call or log record outside RAM, R61, R65
to R70), and writes Z and N from that byte; no other bit of P, no register and no other byte changes. It
completes but for the refused OAM DMA (R180, R181, decisions D9 and D26; log entry 9). -/
def Obligations.IncAndDecModifyOneByte : Prop :=
  ∀ (i : Instr) (s : State), Sound s →
    (i.mnemonic = .inc → ModifyResult i s (fun old => BitVec.ofNat 8 (old.toNat + 1)) fun old q =>
      ZNFrom (BitVec.ofNat 8 (old.toNat + 1)) s.p q) ∧
    (i.mnemonic = .dec → ModifyResult i s (fun old => BitVec.ofNat 8 (old.toNat + 255)) fun old q =>
      ZNFrom (BitVec.ofNat 8 (old.toNat + 255)) s.p q)

/-- O33, tier 2, derived. Each completes in every state: X (Y) is one more (less) mod 256, Z and N are from it, and
no other bit of P, register or byte changes; C is neither read nor written (R182 to R185, decision D9 of the
spec). -/
def Obligations.IndexRegistersStepByOne : Prop :=
  ∀ s : State,
    (∃ t, exec .inx s = .next t ∧ t = { s with x := t.x, p := t.p } ∧ t.x.toNat = (s.x.toNat + 1) % 256 ∧
      ZNFrom t.x s.p t.p) ∧
    (∃ t, exec .iny s = .next t ∧ t = { s with y := t.y, p := t.p } ∧ t.y.toNat = (s.y.toNat + 1) % 256 ∧
      ZNFrom t.y s.p t.p) ∧
    (∃ t, exec .dex s = .next t ∧ t = { s with x := t.x, p := t.p } ∧ t.x.toNat = (s.x.toNat + 255) % 256 ∧
      ZNFrom t.x s.p t.p) ∧
    (∃ t, exec .dey s = .next t ∧ t = { s with y := t.y, p := t.p } ∧ t.y.toNat = (s.y.toNat + 255) % 256 ∧
      ZNFrom t.y s.p t.p)

/-- O34, tier 1, derived. Each completes in every state; only the destination register, and for the first four Z and
N from the byte copied, change (R190 to R194, decisions D9 and D30 of the spec). -/
def Obligations.TransfersCopyOneRegister : Prop :=
  ∀ s : State,
    (∃ p, exec .tax s = .next { s with x := s.a, p := p } ∧ ZNFrom s.a s.p p) ∧
    (∃ p, exec .txa s = .next { s with a := s.x, p := p } ∧ ZNFrom s.x s.p p) ∧
    (∃ p, exec .tay s = .next { s with y := s.a, p := p } ∧ ZNFrom s.a s.p p) ∧
    (∃ p, exec .tya s = .next { s with a := s.y, p := p } ∧ ZNFrom s.y s.p p) ∧
    exec .txs s = .next { s with sp := s.x }

/-- O35, tier 2, derived. In every sound state each completes with the byte at RAM[0x100 + SP], every other cell as
before and SP one less mod 256; PHA changes nothing else; PHP sets bits 4 and 5 of P, leaves the six flags, and
pushes that P (R200, R202, decision D3 of the spec). -/
def Obligations.PhaAndPhpPushOneByte : Prop :=
  ∀ s : State, Sound s →
    (∃ t, exec .pha s = .next t ∧ t = { s with mem := t.mem, sp := t.sp } ∧
      t.sp.toNat = (s.sp.toNat + 255) % 256 ∧
      ∀ k, t.mem.read k = if k = 0x100 + s.sp.toNat then s.a else s.mem.read k) ∧
    ∃ t, exec .php s = .next t ∧ t = { s with mem := t.mem, sp := t.sp, p := t.p } ∧
      t.sp.toNat = (s.sp.toNat + 255) % 256 ∧
      (∀ k < 8, t.p.getLsbD k = (s.p.getLsbD k || decide (k = 4 ∨ k = 5))) ∧
      ∀ k, t.mem.read k = if k = 0x100 + s.sp.toNat then t.p else s.mem.read k

/-- O36, tier 1, derived. Each completes in every state with SP one more mod 256; the byte is RAM[0x100 + the new
SP]; PLA writes A, Z and N, PLP all of P, and nothing else changes (R201, R203, decision D34 of the spec). -/
def Obligations.PlaAndPlpPullOneByte : Prop :=
  ∀ s : State, ∃ sp : Byte, sp.toNat = (s.sp.toNat + 1) % 256 ∧
    (∃ p, exec .pla s = .next { s with a := s.mem.read (0x100 + sp.toNat), sp := sp, p := p } ∧
      ZNFrom (s.mem.read (0x100 + sp.toNat)) s.p p) ∧
    exec .plp s = .next { s with p := s.mem.read (0x100 + sp.toNat), sp := sp }

/-- O37, tier 1, derived. Each completes in every state: SEC sets C, SEI sets I, CLC clears C, CLD clears D; every
other bit of P and every other part of the state is unchanged (R210 to R213, decision D30 of the spec). -/
def Obligations.FlagInstructionsWriteOneBit : Prop :=
  ∀ (i : Instr) (s : State) (f : Flag) (b : Bool),
    (i, f, b) ∈ [(Instr.sec, Flag.c, true), (.sei, .i, true), (.clc, .c, false), (.cld, .d, false)] →
    ∃ p, exec i s = .next { s with p := p } ∧ getFlag f p = b ∧ SameBitsBut [f] s.p p

/-- O38, tier 2, derived. Each branch completes in every state and for every displacement byte: when its flag has
the value it tests, PC (already the next instruction's address) moves by the byte read as signed, mod 65536;
else PC stays; no flag, register or byte changes (R108, R220 to R227; the conditions are the spec's decision
D29). -/
def Obligations.BranchesTestOneFlag : Prop :=
  ∀ (i : Instr) (s : State) (f : Flag) (b : Bool),
    (i.mnemonic, f, b) ∈ [(Mnemonic.beq, Flag.z, true), (.bne, .z, false), (.bmi, .n, true), (.bpl, .n, false),
      (.bcs, .c, true), (.bcc, .c, false), (.bvc, .v, false)] →
    ∃ (d : Byte) (pc : Word), i.operand = .relative d ∧ exec i s = .next { s with pc := pc } ∧
      (pc.toNat : Int) = if getFlag f s.p = b then
        ((s.pc.toNat : Int) + (if d.toNat < 128 then (d.toNat : Int) else d.toNat - 256)) % 65536
        else s.pc.toNat

/-- O39, tier 1, derived. JMP absolute completes in every state with PC the operand word and nothing else changed;
JMP indirect completes with PC the word of its two pointer reads, and the only other change is what those reads
record (R228, R229). -/
def Obligations.JumpsLoadThePc : Prop :=
  ∀ (a : Word) (s : State), exec (.jmpAbs a) s = .next { s with pc := a } ∧
    ∃ ea u, effectiveAddress (.ind a) s = (ea, u) ∧ OnlyPorts s u ∧ exec (.jmpInd a) s = .next { u with pc := ea }

/-- O40, tier 2, derived. In every sound state JSR completes: RAM[0x100 + SP] is the low byte and RAM[0x100 + ((SP -
1) mod 256)] the high byte of (PC - 1) mod 65536, PC being the address after the JSR; SP is two less; PC is the
operand word; no flag, other register or other byte changes (R230, decision D18 of the spec). -/
def Obligations.JsrPushesTheReturnAddressLessOne : Prop :=
  ∀ (a : Word) (s : State), Sound s →
    ∃ (t : State) (r : Word), r.toNat = (s.pc.toNat + 65535) % 65536 ∧ exec (.jsr a) s = .next t ∧
      t = { s with mem := t.mem, sp := t.sp, pc := a } ∧ t.sp.toNat = (s.sp.toNat + 254) % 256 ∧
      ∀ k, t.mem.read k =
        if k = 0x100 + s.sp.toNat then loByte r
        else if k = 0x100 + (s.sp.toNat + 255) % 256 then hiByte r else s.mem.read k

/-- O41, tier 1, derived. RTS completes in every state: PC is ({hi, lo} + 1) mod 65536 with hi the first and lo the
second byte popped, SP is two more mod 256, and nothing else changes (R232). -/
def Obligations.RtsPopsAndAddsOne : Prop :=
  ∀ s : State, ∃ (sp : Byte) (pc : Word), sp.toNat = (s.sp.toNat + 2) % 256 ∧
    exec .rts s = .next { s with sp := sp, pc := pc } ∧
    pc.toNat = ((s.mem.read (0x100 + (s.sp.toNat + 1) % 256)).toNat * 256 +
      (s.mem.read (0x100 + (s.sp.toNat + 2) % 256)).toNat + 1) % 65536

/-- O42, tier 2, derived. From every sound state, JSR to any address completes, RTS in the state it leaves
completes, and the state then differs from the first at most in memory: PC is again the address after the JSR
and SP is as before (R230, R232, R236). -/
def Obligations.RtsUndoesJsr : Prop :=
  ∀ (a : Word) (s : State), Sound s →
    ∃ t u, exec (.jsr a) s = .next t ∧ exec .rts t = .next u ∧ u = { s with mem := t.mem }

/-- O43, tier 1, derived. RTI completes in every state: P is the first byte popped, all eight bits of it, PC is
({hi, lo} + 1) mod 65536 with hi the second and lo the third byte popped, SP is three more mod 256, and nothing
else changes (R233, decision D34 of the spec). -/
def Obligations.RtiRestoresStatusAndPc : Prop :=
  ∀ s : State, ∃ (sp : Byte) (pc : Word), sp.toNat = (s.sp.toNat + 3) % 256 ∧
    exec .rti s = .next
      { s with p := s.mem.read (0x100 + (s.sp.toNat + 1) % 256), sp := sp, pc := pc } ∧
    pc.toNat = ((s.mem.read (0x100 + (s.sp.toNat + 2) % 256)).toNat * 256 +
      (s.mem.read (0x100 + (s.sp.toNat + 3) % 256)).toNat + 1) % 65536

/-- O44, tier 2, derived. In every sound state, whatever I is, BRK completes with the interrupt entry of the vector
0xFFFE, the reserved bits forced in P before it is pushed; PC at the entry is the address after the BRK, so the
address pushed is that of the BRK itself (R235, R246; decisions D3, D18, D19 of the spec). -/
def Obligations.BrkTakesTheInterrupt : Prop :=
  ∀ s : State, Sound s → ∃ t, exec .brk s = .next t ∧ TakesInterrupt 0xFFFE true s t

/-- O45, tier 2, derived. When a state t is s after an interrupt entry, by BRK or by IRQ or NMI, RTI at t completes:
PC is again the PC of s, SP that of s, P is the byte pushed (P of s, for BRK with both reserved bits), and A, X
and Y are those of s (R233, R236, R246, R252). -/
def Obligations.RtiUndoesTheInterruptEntry : Prop :=
  ∀ (vector : Word) (force : Bool) (s t : State), TakesInterrupt vector force s t →
    exec .rti t = .next { s with mem := t.mem, p := if force then forceReserved s.p else s.p }

/-- O46, tier 1, derived. When the driver asks for a step (served in the state u, the schedule advanced), the engine
is Running and no IRQ is taken, and the bytes at PC, of RAM or ROM as far as the instruction reaches, decode to
an instruction under the OPCODE_MAP in force, then the step is exec of that instruction at the state whose PC is
past it and which is marked started, with one trace record added to the next state (R92, R242). Whatever pair of
a mnemonic and a mode the map gives the byte at PC, in RAM or ROM, the operand bytes of the mode are fetched and
the step is the mnemonic's rule on that operand, with one trace record (R93); and on the operand of an
instruction the rule of its mnemonic is exec. What the rule is for a pair outside the table of R110, which only
a map other than the default holds, is the model's reading (log entry 19). The mark and the schedule are the
model's (log entries 7, 12). -/
def Obligations.StepRunsTheDecodedInstruction : Prop :=
  (∀ (s u : State) (i : Instr) (rest : List Byte), ReadyToRun s u →
    decodeWith s.opcodeMap [peek s s.pc, peek s (s.pc + 1), peek s (s.pc + 2)] = .ok (i, rest) →
    (∀ k < i.length, (cellOf (s.pc + BitVec.ofNat 16 k)).isSome = true) →
    ∃ w, w = { u with pc := s.pc + BitVec.ofNat 16 i.length, started := true } ∧
      step s = onNext (exec i w) fun t => { t with trace := traceRecord s.pc i w :: t.trace }) ∧
  (∀ (s u : State) (mn : Mnemonic) (md : Mode), ReadyToRun s u → (cellOf s.pc).isSome = true →
    s.opcodeMap.row (peek s s.pc) = some (mn, md) →
    ∃ o w, fetchOperand md { u with pc := s.pc + 1, started := true } = (o, w) ∧
      step s = onNext (runRule mn o w) fun t => { t with trace := ⟨s.pc, mn, md, resolvedAs mn o w⟩ :: t.trace }) ∧
  ∀ (i : Instr) (s : State), exec i s = runRule i.mnemonic i.operand s

/-- O47, tier 2, derived. When a step runs an instruction at a PC in 0x4018 to 0x7FFF and the OPCODE_MAP in force
gives 0x00 the row BRK, as its default does (D7, log entry 1), the fetch logs one soft-failure read and the step
is BRK with PC one further, with one trace record (R73, R76, R235). That such a fetch is allowed is the spec's
decision D35; the mark started in the next state is the model's (log entry 12). -/
def Obligations.UnmappedFetchRunsBrk : Prop :=
  ∀ s u : State, Sound s → ReadyToRun s u → s.opcodeMap.row 0x00 = some (.brk, .imp) →
    0x4018 ≤ s.pc.toNat → s.pc.toNat ≤ 0x7FFF →
    ∃ w t, w = { u with pc := s.pc + 1, started := true, events := .softRead s.pc :: s.events } ∧
      TakesInterrupt 0xFFFE true w t ∧ step s = .next { t with trace := ⟨s.pc, .brk, .imp, .nothing⟩ :: t.trace }

/-- O48, tier 2, derived. When a step runs an instruction and the byte at PC, in RAM or ROM, has no row in the
OPCODE_MAP in force, or the map is the default and the byte is one of the 111 that R113 lists, the next state
has Fault set, PC one past the byte, one fault record with the byte and its address, and no other change but the
mark that a step was made and the schedule (R240, R241, decision D21 of the spec). A byte that has a row,
whatever mnemonic and mode, sets no Fault: that no row is there is the only cause (R93, C6). Which bytes fault
is the parameter OPCODE_MAP's, by its default D7 the 111 (log entry 1); the mark is the model's (log entry 12). -/
def Obligations.IllegalOpcodeSetsFault : Prop :=
  ∀ s u : State, ReadyToRun s u → (cellOf s.pc).isSome = true →
    (s.opcodeMap.row (peek s s.pc) = none ∨ s.opcodeMap = OpcodeMap.standard ∧ peek s s.pc ∈ illegalOpcodes →
      step s = .next { u with
        faulted := true, pc := s.pc + 1, started := true, events := .faultRaised (peek s s.pc) s.pc :: s.events }) ∧
    ∀ row, s.opcodeMap.row (peek s s.pc) = some row → ∀ t, step s = .next t → t.faulted = false

/-- O49, tier 2, stated. In state Faulted a step request leaves the whole state in which it is served as it is: no
register, byte, log, trace or draw changes. Whatever request is served next, if the engine is Faulted before and
not after, the request was reset. -/
def Obligations.FaultedIsTerminal : Prop :=
  (∀ s : State, s.faulted = true → engineStep s = .next s ∧ ∀ u, nextRequest s = (.step, u) → step s = .next u) ∧
    ∀ s t : State, s.faulted = true → step s = .next t → t.faulted = true ∨ ∃ v, (nextRequest s).1 = .reset v

/-- O50, tier 2, derived. In every sound state with the engine Running, irq_pending true, I clear and a step asked
for, the step completes with the interrupt entry of the vector 0xFFFE: (PC - 1) mod 65536 and P as it stands are
pushed, I is set, PC is loaded from 0xFFFE/0xFFFF, and nothing of the instruction at PC happens (R245). The word
pushed is the spec's decision D18 (R234), the byte order of the vector its decision D6 (R246), the one sample at
the start of the step D28; the mark started in the next state is the model's (log entry 12). -/
def Obligations.UnmaskedIrqIsTaken : Prop :=
  ∀ s u : State, Sound s → nextRequest s = (.step, u) → s.faulted = false → s.irqPending = true →
    getFlag .i s.p = false → ∃ t, step s = .next t ∧ TakesInterrupt 0xFFFE false { u with started := true } t

/-- O51, tier 2, derived. In every sound state with the engine Running, an nmi request completes at once with the
interrupt entry of the vector 0xFFFA, P pushed as it stands, I not consulted; on a Faulted engine it changes
nothing (R248, R249; decisions D19 and D20 of the spec). -/
def Obligations.NmiIsTakenUnmasked : Prop :=
  ∀ s : State,
    (Sound s → s.faulted = false → ∃ t, serve .nmi s = .next t ∧ TakesInterrupt 0xFFFA false s t) ∧
    (s.faulted = true → serve .nmi s = .next s)

/-- O52, tier 2, derived. For every choice of the open parameters and every ROM image of 32768 bytes, reset,
rom_load and pc_load of the word at the reset vector complete in that order, and leave Fault 0, A, X, Y, SP and
P at their parameters, RAM at RAM_INIT, ROM at the image, and PC = image[0x7FFD] * 256 + image[0x7FFC] (R46,
R280, R281; decisions D5 and D6 of the spec). -/
def Obligations.BootLoadsRomAndPc : Prop :=
  ∀ (v : ResetValues) (image : List Byte) (s : State), image.length = 0x8000 → v.ram.length = 0x800 →
    ∃ s1 s2 s3, serve (.reset v) s = .next s1 ∧ serve (.romLoad image) s1 = .next s2 ∧
      serve (.pcLoad (bootVector s2)) s2 = .next s3 ∧
      s3.faulted = false ∧ s3.a = v.a ∧ s3.x = v.x ∧ s3.y = v.y ∧ s3.sp = v.sp ∧ s3.p = v.p ∧
      s3.pc.toNat = (image.getD 0x7FFD 0).toNat * 256 + (image.getD 0x7FFC 0).toNat ∧
      (∀ k < 0x800, s3.mem.read k = v.ram.getD k 0) ∧
      ∀ k < 0x8000, s3.mem.read (0x8000 + k) = image.getD k 0

/-- O53, tier 2, derived. A completed step of a Running engine leaves the mark started; every move that completes
keeps the mark unless the request served is reset; while it stands pc_load and rom_load are refused by name, and
a driver with an empty agenda asks for neither (R38, R43, R285, decision D5). The mark, the refusals and the
schedule are the model's (log entries 7, 12). -/
def Obligations.BootPortsCloseAtTheFirstStep : Prop :=
  (∀ s t : State, s.faulted = false → engineStep s = .next t → t.started = true) ∧
    (∀ s t : State, s.started = true → step s = .next t → t.started = true ∨ ∃ v, (nextRequest s).1 = .reset v) ∧
    ∀ s : State, s.started = true →
      (∀ w, serve (.pcLoad w) s = .refused .pcLoadAfterFirstStep ∧
        (s.agenda = [] → (nextRequest s).1 ≠ .pcLoad w)) ∧
      ∀ image, serve (.romLoad image) s = .refused .romLoadAfterFirstStep ∧
        (s.agenda = [] → (nextRequest s).1 ≠ .romLoad image)

/-- O54, tier 1, derived. State.reset has a canonical memory, is Running under the default OPCODE_MAP, and its next
request is a step that takes no IRQ; and a reset request with any parameters leaves Fault 0 and A, X, Y, SP, P
at them (R46). The model's choices in it: that State.reset takes every open parameter as zero and OPCODE_MAP at
its default (log entries 1 to 4), that the IRQ level is false and nothing but steps is scheduled there (log
entries 6, 7), and that PC, unspecified in R46, is a parameter of reset (log entry 17). -/
def Obligations.SoundAtReset : Prop :=
  Sound State.reset ∧ ReadyToRun State.reset State.reset ∧ State.reset.opcodeMap = OpcodeMap.standard ∧
    ∀ (v : ResetValues) (s : State), ∃ t, serve (.reset v) s = .next t ∧ snapshot t = ⟨v.a, v.x, v.y, v.sp, v.pc, v.p, false⟩

/-- O55, tier 3, derived. From every sound state, whatever request is served next (a step with any instruction, an
IRQ entry, nmi, reset, pc_load, rom_load, a change of the IRQ level), the next state is sound. -/
def Obligations.EveryStepKeepsTheStateSound : Prop :=
  ∀ s t : State, Sound s → step s = .next t → Sound t

/-- O56, tier 3, derived. In every state, every move leaves the OPCODE_MAP in force (R7, log entry 1), and unless
the request served next is rom_load, every ROM byte reads the same after the move as before it (R43, R58, R84,
decision D22 of the spec). That a reset keeps ROM too is the model's choice (log entry 17). -/
def Obligations.OnlyTheLoaderWritesRom : Prop :=
  ∀ s t : State, step s = .next t → t.opcodeMap = s.opcodeMap ∧
    ((∀ image, (nextRequest s).1 ≠ .romLoad image) → ∀ addr : Word, 0x8000 ≤ addr.toNat → peek t addr = peek s addr)

/-- O57, tier 2, derived. For every instruction and state: a flag changes only if the mnemonic stands in the spec's
list of that flag's writers, a reserved bit only for PHP, BRK, PLP and RTI, and an instruction that turns I from
1 to 0 is PLP or RTI (R29). -/
def Obligations.EachFlagHasItsWriters : Prop :=
  ∀ (i : Instr) (s t : State), exec i s = .next t →
    (∀ f, i.mnemonic ∉ flagWriters f → getFlag f t.p = getFlag f s.p) ∧
    (i.mnemonic ∉ reservedWriters → t.p.getLsbD 4 = s.p.getLsbD 4 ∧ t.p.getLsbD 5 = s.p.getLsbD 5) ∧
    (getFlag .i s.p = true → getFlag .i t.p = false → i.mnemonic = .plp ∨ i.mnemonic = .rti)

/-- O58, tier 2, derived. For every instruction and state, A, X, Y, SP and PC change only for the mnemonics the spec
lists as their writers (PC besides by the fetch), memory only for stores, memory modifications and pushes (R21
to R25); and no instruction changes the Fault latch, the trace or the OPCODE_MAP. That none changes the IRQ
level is the model's unsafe choice: R36 and R66 say an access of 0x4015 may (log entry 6); the agenda, the
driver and the mark of a started engine, which none changes either, are the model's own (log entries 7, 12). -/
def Obligations.EachRegisterHasItsWriters : Prop :=
  ∀ (i : Instr) (s t : State), exec i s = .next t →
    (writesA i = false → t.a = s.a) ∧ (i.mnemonic ∉ xWriters → t.x = s.x) ∧ (i.mnemonic ∉ yWriters → t.y = s.y) ∧
    (i.mnemonic ∉ spWriters → t.sp = s.sp) ∧ (i.mnemonic ∉ pcWriters → t.pc = s.pc) ∧
    (writesBus i = false → t.mem = s.mem) ∧ t.faulted = s.faulted ∧ t.trace = s.trace ∧ t.opcodeMap = s.opcodeMap ∧
    t.irqPending = s.irqPending ∧ t.agenda = s.agenda ∧ t.driver = s.driver ∧ t.started = s.started

/-- O59, tier 3, derived. Take any instruction but PHP, BRK, PLP and RTI, any state, and the same state with some of
the bits I, D, P[4] and P[5] flipped (not I for SEI, not D for CLD): the two outcomes are the same but for those
same bits flipped. So decimal mode changes no arithmetic, and nothing but the pushes and the IRQ poll reads
these bits (R29, R140, decision D12 of the spec). -/
def Obligations.ReservedBitsAndMasksStayUnread : Prop :=
  ∀ (i : Instr) (s : State) (m : Byte), i.mnemonic ∉ reservedWriters → m &&& 0x3C = m →
    (i.mnemonic = .sei → m.getLsbD 2 = false) → (i.mnemonic = .cld → m.getLsbD 3 = false) →
    exec i { s with p := s.p ^^^ m } = onNext (exec i s) fun t => { t with p := t.p ^^^ m }

/-- O60, tier 2, derived. For every instruction and every state exec answers a next state, unless the instruction
writes a byte of 0x20 or more to the effective address 0x4014, which the spec says a model should refuse and the
model refuses by name (R51, R69, R254; log entry 9). The same holds of a mnemonic's rule on an operand of any
mode, as a map other than the default may have it (log entry 19). -/
def Obligations.OnlyTheOamDmaStops : Prop :=
  (∀ (i : Instr) (s : State), (∃ t, exec i s = .next t) ∨
    ∃ place v, i.operand = .memory place ∧ (effectiveAddress place s).1 = 0x4014 ∧ 0x20 ≤ v.toNat ∧
      i.mnemonic ∈ [Mnemonic.sta, .stx, .sty, .inc, .dec, .asl, .lsr, .rol, .ror] ∧
      exec i s = .refused (.oamDmaSourceNotRam v)) ∧
  ∀ (mn : Mnemonic) (o : Operand) (s : State), (∃ t, runRule mn o s = .next t) ∨
    ∃ v, (effectiveAddress (takePlace o s).1 (takePlace o s).2).1 = 0x4014 ∧ 0x20 ≤ v.toNat ∧
      mn ∈ [Mnemonic.sta, .stx, .sty, .inc, .dec, .asl, .lsr, .rol, .ror] ∧
      runRule mn o s = .refused (.oamDmaSourceNotRam v)
end

