-- ==== Sys2Proof/Laws/Decode.lean ====
section
/-!
SUPPORT. Sys2Proof/Laws/Decode.lean: words and their bytes, what the decoder does under any map with the row of an opcode
byte, what the form of a row makes, and the opcodes of the default map's rows.
-/

namespace Sys2Proof

/-! ## Words and bytes -/

theorem toNat_wordOf (hi lo : Byte) : (wordOf hi lo).toNat = hi.toNat * 256 + lo.toNat := by
  have := hi.isLt
  have := lo.isLt
  simp only [wordOf, BitVec.toNat_ofNat]
  omega

theorem toNat_loByte (w : Word) : (loByte w).toNat = w.toNat % 256 := by simp [loByte]

theorem toNat_hiByte (w : Word) : (hiByte w).toNat = w.toNat / 256 := by
  have := w.isLt
  simp only [hiByte, BitVec.toNat_ofNat]
  omega

@[simp] theorem wordOf_hiByte_loByte (w : Word) : wordOf (hiByte w) (loByte w) = w := by
  apply BitVec.eq_of_toNat_eq
  rw [toNat_wordOf, toNat_hiByte, toNat_loByte]
  omega

@[simp] theorem loByte_wordOf (hi lo : Byte) : loByte (wordOf hi lo) = lo := by
  apply BitVec.eq_of_toNat_eq
  have := lo.isLt
  rw [toNat_loByte, toNat_wordOf]
  omega

@[simp] theorem hiByte_wordOf (hi lo : Byte) : hiByte (wordOf hi lo) = hi := by
  apply BitVec.eq_of_toNat_eq
  have := lo.isLt
  rw [toNat_hiByte, toNat_wordOf]
  omega

/-! ## Decoding by form -/

theorem decodeWith_f1 {m : OpcodeMap} {opc : Byte} {i : Instr} (h : m.form opc = .ok (.f1 i)) (rest : List Byte) :
    decodeWith m (opc :: rest) = .ok (i, rest) := by simp [decodeWith, h]

theorem decodeWith_f2 {m : OpcodeMap} {opc : Byte} {k : Byte → Instr} (h : m.form opc = .ok (.f2 k)) (d : Byte)
    (rest : List Byte) : decodeWith m (opc :: d :: rest) = .ok (k d, rest) := by simp [decodeWith, h]

theorem decodeWith_f3 {m : OpcodeMap} {opc : Byte} {k : Word → Instr} (h : m.form opc = .ok (.f3 k)) (lo hi : Byte)
    (rest : List Byte) : decodeWith m (opc :: lo :: hi :: rest) = .ok (k (wordOf hi lo), rest) := by
  simp [decodeWith, h]

/-- Everything a successful decoding can be: a form for the first byte, and the operand bytes it takes. -/
theorem decodeWith_cases {m : OpcodeMap} {bytes rest : List Byte} {i : Instr}
    (h : decodeWith m bytes = .ok (i, rest)) :
    (∃ opc, bytes = opc :: rest ∧ m.form opc = .ok (.f1 i)) ∨
    (∃ opc d k, bytes = opc :: d :: rest ∧ m.form opc = .ok (.f2 k) ∧ i = k d) ∨
    (∃ opc lo hi k, bytes = opc :: lo :: hi :: rest ∧ m.form opc = .ok (.f3 k) ∧ i = k (wordOf hi lo)) := by
  match bytes with
  | [] => simp [decodeWith] at h
  | opc :: tail =>
    cases hf : m.form opc with
    | error e => simp [decodeWith, hf] at h
    | ok f =>
      cases f with
      | f1 j =>
        simp only [decodeWith, hf, Except.ok.injEq, Prod.mk.injEq] at h
        exact .inl ⟨opc, by rw [h.2], by rw [← h.1, hf]⟩
      | f2 k =>
        match tail with
        | [] => simp [decodeWith, hf] at h
        | d :: tail =>
          simp only [decodeWith, hf, Except.ok.injEq, Prod.mk.injEq] at h
          exact .inr (.inl ⟨opc, d, k, by rw [h.2], hf, h.1.symm⟩)
      | f3 k =>
        match tail with
        | [] => simp [decodeWith, hf] at h
        | [_] => simp [decodeWith, hf] at h
        | lo :: hi :: tail =>
          simp only [decodeWith, hf, Except.ok.injEq, Prod.mk.injEq] at h
          exact .inr (.inr ⟨opc, lo, hi, k, by rw [h.2], hf, h.1.symm⟩)

/-! ## What a form makes -/

/-- A form makes instructions of one mnemonic and mode, whose operand bytes are those it takes. -/
def Form.Makes (mn : Mnemonic) (md : Mode) : Form → Prop
  | .f1 i => i.mnemonic = mn ∧ i.mode = md ∧ i.operand.bytes = []
  | .f2 k => ∀ d, (k d).mnemonic = mn ∧ (k d).mode = md ∧ (k d).operand.bytes = [d]
  | .f3 k => ∀ a, (k a).mnemonic = mn ∧ (k a).mode = md ∧ (k a).operand.bytes = [loByte a, hiByte a]

/-- Every form of a mnemonic makes instructions of it, in the form's mode. -/
theorem Mnemonic.forms_make (mn : Mnemonic) : ∀ f ∈ mn.forms, f.Makes mn f.row.2 := by
  cases mn <;> intro f h <;> fin_cases h <;> first
    | exact ⟨rfl, rfl, rfl⟩
    | exact fun _ => ⟨rfl, rfl, rfl⟩

theorem formOf_makes {mn : Mnemonic} {md : Mode} {f : Form} (h : formOf mn md = some f) : f.Makes mn md := by
  have hm := mn.forms_make f (List.mem_of_find?_eq_some h)
  rwa [show f.row.2 = md by simpa using List.find?_some h] at hm

/-- An opcode byte has a form under a map exactly when it has a row there of which the spec describes an instruction. -/
theorem form_ok {m : OpcodeMap} {opc : Byte} {f : Form} :
    m.form opc = .ok f ↔ ∃ mn md, m.row opc = some (mn, md) ∧ formOf mn md = some f := by
  unfold OpcodeMap.form
  rcases m.row opc with _ | ⟨mn, md⟩
  · simp
  · cases h : formOf mn md <;> simp [h]

theorem form_of_no_row {m : OpcodeMap} {opc : Byte} (h : m.row opc = none) :
    m.form opc = .error (.illegalOpcode opc) := by simp [OpcodeMap.form, h]

/-- What decoding makes of the row of the first byte (30_encoding R91, R93): the mnemonic and the mode of the row, and
the bytes after the opcode as operand bytes, as many as the mode has. -/
theorem decodeWith_row {m : OpcodeMap} {bytes rest : List Byte} {i : Instr} (h : decodeWith m bytes = .ok (i, rest)) :
    ∃ opc, bytes = opc :: (i.operand.bytes ++ rest) ∧ m.row opc = some (i.mnemonic, i.mode) := by
  rcases decodeWith_cases h with ⟨opc, rfl, hf⟩ | ⟨opc, d, k, rfl, hf, rfl⟩ | ⟨opc, lo, hi, k, rfl, hf, rfl⟩
  all_goals
    obtain ⟨mn, md, hr, hm⟩ := form_ok.mp hf
    have hm := formOf_makes hm
    refine ⟨opc, ?_, ?_⟩
  · rw [hm.2.2]; rfl
  · rw [hr, hm.1, hm.2.1]
  · rw [(hm d).2.2]; rfl
  · rw [hr, (hm d).1, (hm d).2.1]
  · rw [(hm _).2.2, loByte_wordOf, hiByte_wordOf]; rfl
  · rw [hr, (hm _).1, (hm _).2.1]

/-! ## The default map -/

/-- The opcode of every instruction a form makes is `opc`. -/
def Form.Opens (opc : Byte) : Form → Prop
  | .f1 i => i.opcode = opc
  | .f2 k => ∀ d, (k d).opcode = opc
  | .f3 k => ∀ a, (k a).opcode = opc

theorem standard_opens_0 {n : Nat} (h1 : 0 ≤ n) (h2 : n < 64) {f : Form}
    (h : OpcodeMap.standard.form (BitVec.ofNat 8 n) = .ok f) : f.Opens (BitVec.ofNat 8 n) := by
  interval_cases n <;> cases h <;> first
    | exact rfl
    | exact fun _ => rfl

theorem standard_opens_1 {n : Nat} (h1 : 64 ≤ n) (h2 : n < 128) {f : Form}
    (h : OpcodeMap.standard.form (BitVec.ofNat 8 n) = .ok f) : f.Opens (BitVec.ofNat 8 n) := by
  interval_cases n <;> cases h <;> first
    | exact rfl
    | exact fun _ => rfl

theorem standard_opens_2 {n : Nat} (h1 : 128 ≤ n) (h2 : n < 192) {f : Form}
    (h : OpcodeMap.standard.form (BitVec.ofNat 8 n) = .ok f) : f.Opens (BitVec.ofNat 8 n) := by
  interval_cases n <;> cases h <;> first
    | exact rfl
    | exact fun _ => rfl

theorem standard_opens_3 {n : Nat} (h1 : 192 ≤ n) (h2 : n < 256) {f : Form}
    (h : OpcodeMap.standard.form (BitVec.ofNat 8 n) = .ok f) : f.Opens (BitVec.ofNat 8 n) := by
  interval_cases n <;> cases h <;> first
    | exact rfl
    | exact fun _ => rfl

/-- Every row of the default map makes instructions whose opcode is its byte (30_encoding R110). -/
theorem standard_opens {opc : Byte} {f : Form} (h : OpcodeMap.standard.form opc = .ok f) : f.Opens opc := by
  obtain ⟨n, hn, rfl⟩ : ∃ n, n < 256 ∧ opc = BitVec.ofNat 8 n := ⟨opc.toNat, opc.isLt, by simp⟩
  rcases Nat.lt_or_ge n 64 with h0 | h0
  · exact standard_opens_0 (Nat.zero_le n) h0 h
  rcases Nat.lt_or_ge n 128 with h1 | h1
  · exact standard_opens_1 h0 h1 h
  rcases Nat.lt_or_ge n 192 with h2 | h2
  · exact standard_opens_2 h1 h2 h
  · exact standard_opens_3 h2 hn h

end Sys2Proof
end

