-- ==== Sys2Proof/Laws/Flags.lean ====
section
/-!
SUPPORT. Sys2Proof/Laws/Flags.lean: reading a bit of the status byte after each flag operation.
-/

namespace Sys2Proof.Machine

/-- Bit `j` after bit `k` is set to `b`. -/
theorem getLsbD_putBit {k j : Nat} (hk : k < 8) (hj : j < 8) (b : Bool) (p : Byte) :
    (putBit k b p).getLsbD j = if j = k then b else p.getLsbD j := by
  interval_cases k <;> interval_cases j <;> cases b <;> simp [putBit]

theorem Flag.bit_lt (f : Flag) : f.bit < 8 := by cases f <;> decide

theorem Flag.bit_inj {f g : Flag} : f.bit = g.bit ↔ f = g := by
  cases f <;> cases g <;> decide

/-- Bit `j` after flag `f` is set to `b`. -/
theorem getLsbD_putFlag (f : Flag) {j : Nat} (hj : j < 8) (b : Bool) (p : Byte) :
    (putFlag f b p).getLsbD j = if j = f.bit then b else p.getLsbD j :=
  getLsbD_putBit f.bit_lt hj b p

@[simp] theorem getFlag_putFlag (f g : Flag) (b : Bool) (p : Byte) :
    getFlag g (putFlag f b p) = if g = f then b else getFlag g p := by
  rw [getFlag, getLsbD_putFlag f g.bit_lt]
  simp [Flag.bit_inj, getFlag]

/-- `SetZN` sets Z from zero and N from bit 7, and no other flag (10_state R28). -/
@[simp] theorem getFlag_setZN (g : Flag) (v p : Byte) :
    getFlag g (setZN v p) = if g = .n then v.msb else if g = .z then v == 0 else getFlag g p := by
  simp [setZN, setN, setZ]

@[simp] theorem getFlag_setZ (g : Flag) (v p : Byte) :
    getFlag g (setZ v p) = if g = .z then v == 0 else getFlag g p := by
  simp [setZ]

@[simp] theorem getFlag_setN (g : Flag) (v p : Byte) :
    getFlag g (setN v p) = if g = .n then v.msb else getFlag g p := by
  simp [setN]

/-- `P | 0x30` sets bits 4 and 5 and no other. -/
theorem getLsbD_forceReserved {j : Nat} (hj : j < 8) (p : Byte) :
    (forceReserved p).getLsbD j = (p.getLsbD j || decide (j = 4 ∨ j = 5)) := by
  interval_cases j <;> simp [forceReserved]

@[simp] theorem getFlag_forceReserved (g : Flag) (p : Byte) : getFlag g (forceReserved p) = getFlag g p := by
  rw [getFlag, getLsbD_forceReserved g.bit_lt, getFlag]
  cases g <;> simp [Flag.bit]

/-- Two status bytes with the same eight bits are equal. -/
theorem status_ext {p q : Byte} (h : ∀ k < 8, p.getLsbD k = q.getLsbD k) : p = q :=
  BitVec.eq_of_getLsbD_eq h

end Sys2Proof.Machine
end

