-- ==== Sys2Proof/Laws/Memory.lean ====
section
/-!
SUPPORT. Sys2Proof/Laws/Memory.lean: reading after writing, and that every memory operation keeps the canonical form
and the range of keys.
-/

namespace Sys2Proof.Machine

@[simp] theorem Memory.read_nil (k : Nat) : Memory.read [] k = Memory.unlisted := rfl

@[simp] theorem Memory.read_cons (j : Nat) (b : Byte) (rest : Memory) (k : Nat) :
    Memory.read ((j, b) :: rest) k = if j = k then b else Memory.read rest k := rfl

/-! ## Bounds on keys -/

@[simp] theorem Memory.above_nil (k : Nat) : Memory.above k [] = true := rfl

@[simp] theorem Memory.above_cons (k j : Nat) (b : Byte) (rest : Memory) :
    Memory.above k ((j, b) :: rest) = true ↔ k ≤ j ∧ Memory.above k rest = true := by
  simp [Memory.above]

theorem Memory.above_mono {k j : Nat} (h : k ≤ j) : ∀ {m : Memory}, Memory.above j m = true → Memory.above k m = true
  | [], _ => rfl
  | (_, _) :: _, hm => by
    rw [Memory.above_cons] at hm ⊢
    exact ⟨le_trans h hm.1, Memory.above_mono h hm.2⟩

/-- A key below every listed one reads as unlisted. -/
theorem Memory.read_of_above {k j : Nat} (h : j < k) :
    ∀ {m : Memory}, Memory.above k m = true → Memory.read m j = Memory.unlisted
  | [], _ => rfl
  | (i, _) :: _, hm => by
    rw [Memory.above_cons] at hm
    rw [Memory.read_cons, if_neg (by omega)]
    exact Memory.read_of_above h hm.2

@[simp] theorem Memory.wf_nil : Memory.wf [] = true := rfl

@[simp] theorem Memory.wf_cons (k : Nat) (b : Byte) (rest : Memory) :
    Memory.wf ((k, b) :: rest) = true ↔
      b ≠ Memory.unlisted ∧ Memory.above (k + 1) rest = true ∧ Memory.wf rest = true := by
  simp [Memory.wf, and_assoc]

@[simp] theorem Memory.backed_nil : Memory.backed [] = true := rfl

@[simp] theorem Memory.backed_cons (k : Nat) (b : Byte) (rest : Memory) :
    Memory.backed ((k, b) :: rest) = true ↔ backedKey k = true ∧ Memory.backed rest = true := by
  simp [Memory.backed]

/-! ## Writing one cell -/

/-- A write leaves every other cell alone, in any list of cells. -/
theorem Memory.read_write_other {k j : Nat} (h : j ≠ k) (v : Byte) :
    ∀ m : Memory, Memory.read (Memory.write m k v) j = Memory.read m j
  | [] => by
    unfold Memory.write
    split <;> simp [Ne.symm h]
  | (i, b) :: rest => by
    have ih := Memory.read_write_other h v rest
    unfold Memory.write
    split_ifs with h1 h2 h3 h4 <;> simp_all [Ne.symm]

theorem Memory.above_write {k j : Nat} (h : j ≤ k) (v : Byte) :
    ∀ {m : Memory}, Memory.above j m = true → Memory.above j (Memory.write m k v) = true
  | [], _ => by
    unfold Memory.write
    split <;> simp [h]
  | (i, b) :: rest, hm => by
    rw [Memory.above_cons] at hm
    have ih := Memory.above_write h v hm.2
    unfold Memory.write
    split_ifs <;> simp_all

/-- A cell written reads as the byte written. -/
theorem Memory.read_write_same (k : Nat) (v : Byte) :
    ∀ {m : Memory}, Memory.wf m = true → Memory.read (Memory.write m k v) k = v
  | [], _ => by
    unfold Memory.write
    split <;> simp_all
  | (i, b) :: rest, hm => by
    rw [Memory.wf_cons] at hm
    have ih := Memory.read_write_same k v hm.2.2
    unfold Memory.write
    split_ifs with h1 h2 h3 h4
    · rw [Memory.read_cons, if_neg (by omega), h2]
      exact Memory.read_of_above (by omega) hm.2.1
    · simp
    · subst h3
      rw [h4]
      exact Memory.read_of_above (by omega) hm.2.1
    · simp
    · rw [Memory.read_cons, if_neg (by omega), ih]

/-- A write keeps the canonical form. -/
theorem Memory.wf_write (k : Nat) (v : Byte) :
    ∀ {m : Memory}, Memory.wf m = true → Memory.wf (Memory.write m k v) = true
  | [], _ => by
    unfold Memory.write
    split <;> simp_all
  | (i, b) :: rest, hm => by
    have hm' := hm
    rw [Memory.wf_cons] at hm
    have ih := Memory.wf_write k v hm.2.2
    unfold Memory.write
    split_ifs with h1 h2 h3 h4
    · exact hm'
    · rw [Memory.wf_cons, Memory.above_cons]
      exact ⟨h2, ⟨by omega, Memory.above_mono (by omega) hm.2.1⟩, hm'⟩
    · exact hm.2.2
    · rw [Memory.wf_cons]
      exact ⟨h4, h3 ▸ hm.2.1, hm.2.2⟩
    · rw [Memory.wf_cons]
      exact ⟨hm.1, Memory.above_write (by omega) v hm.2.1, ih⟩

/-- A write to a backed cell keeps every cell backed. -/
theorem Memory.backed_write {k : Nat} (hk : backedKey k = true) (v : Byte) :
    ∀ {m : Memory}, Memory.backed m = true → Memory.backed (Memory.write m k v) = true
  | [], _ => by
    unfold Memory.write
    split <;> simp_all
  | (i, b) :: rest, hm => by
    rw [Memory.backed_cons] at hm
    have ih := Memory.backed_write hk v hm.2
    unfold Memory.write
    split_ifs <;> simp_all

/-! ## Placing consecutive bytes -/

theorem Memory.above_cellsFrom {j : Nat} : ∀ (bytes : List Byte) {k : Nat}, j ≤ k →
    Memory.above j (Memory.cellsFrom k bytes) = true
  | [], _, _ => rfl
  | b :: rest, k, h => by
    have ih := Memory.above_cellsFrom (j := j) rest (k := k + 1) (by omega)
    unfold Memory.cellsFrom
    split_ifs <;> simp_all

/-- Placed cells are in canonical form. -/
theorem Memory.wf_cellsFrom : ∀ (bytes : List Byte) (k : Nat), Memory.wf (Memory.cellsFrom k bytes) = true
  | [], _ => rfl
  | b :: rest, k => by
    have ih := Memory.wf_cellsFrom rest (k + 1)
    unfold Memory.cellsFrom
    split_ifs with h
    · exact ih
    · rw [Memory.wf_cons]
      exact ⟨h, Memory.above_cellsFrom rest le_rfl, ih⟩

/-- Placed cells are backed where every key of the range is. -/
theorem Memory.backed_cellsFrom : ∀ (bytes : List Byte) (k : Nat),
    (∀ j, k ≤ j → j < k + bytes.length → backedKey j = true) → Memory.backed (Memory.cellsFrom k bytes) = true
  | [], _, _ => rfl
  | b :: rest, k, h => by
    have ih := Memory.backed_cellsFrom rest (k + 1) fun j h1 h2 => h j (by omega) (by simp; omega)
    have hk := h k le_rfl (by simp)
    unfold Memory.cellsFrom
    split_ifs <;> simp_all

/-- Byte `j` of the placed bytes reads back at its key, and every other key reads as unlisted. -/
theorem Memory.read_cellsFrom : ∀ (bytes : List Byte) (k j : Nat),
    Memory.read (Memory.cellsFrom k bytes) j =
      if k ≤ j then bytes.getD (j - k) Memory.unlisted else Memory.unlisted
  | [], k, j => by simp [Memory.cellsFrom]
  | b :: rest, k, j => by
    have ih := Memory.read_cellsFrom rest (k + 1) j
    have hcons : Memory.read (Memory.cellsFrom k (b :: rest)) j =
        if j = k then b else Memory.read (Memory.cellsFrom (k + 1) rest) j := by
      by_cases hb : b = Memory.unlisted
      · rw [Memory.cellsFrom, if_pos hb]
        split_ifs with h
        · rw [ih, if_neg (by omega), hb]
        · rfl
      · rw [Memory.cellsFrom, if_neg hb, Memory.read_cons]
        simp only [eq_comm]
    rw [hcons, ih]
    rcases Nat.lt_trichotomy j k with h | h | h
    · rw [if_neg (by omega), if_neg (by omega), if_neg (by omega)]
    · subst h
      simp
    · obtain ⟨n, hn⟩ : ∃ n, j - k = n + 1 := ⟨j - k - 1, by omega⟩
      have hn' : j - (k + 1) = n := by omega
      rw [if_neg (by omega), if_pos (by omega), if_pos (by omega), hn, hn']
      simp

/-- A placed cell lies in the range of keys placed. -/
theorem Memory.mem_cellsFrom : ∀ {bytes : List Byte} {k : Nat} {c : Host.Cell},
    c ∈ Memory.cellsFrom k bytes → k ≤ c.1 ∧ c.1 < k + bytes.length
  | [], _, _, h => by simp [Memory.cellsFrom] at h
  | b :: rest, k, c, h => by
    have ih := Memory.mem_cellsFrom (bytes := rest) (k := k + 1) (c := c)
    rw [List.length_cons]
    unfold Memory.cellsFrom at h
    split_ifs at h
    · have := ih h
      omega
    · rcases List.mem_cons.mp h with rfl | h
      · simp
      · have := ih h
        omega

/-! ## Joining RAM and ROM -/

theorem Memory.read_append : ∀ (m n : Memory) (k : Nat),
    Memory.read (m ++ n) k = if m.any (fun cell => cell.1 == k) then Memory.read m k else Memory.read n k
  | [], n, k => by simp
  | (j, b) :: rest, n, k => by
    have ih := Memory.read_append rest n k
    by_cases h : j = k <;> simp [h, ih]

theorem Memory.backed_append {m n : Memory} (hm : Memory.backed m = true) (hn : Memory.backed n = true) :
    Memory.backed (m ++ n) = true := by
  unfold Memory.backed at *
  rw [List.all_append, hm, hn]
  rfl

theorem Memory.backed_filter {m : Memory} (q : Host.Cell → Bool) (hm : Memory.backed m = true) :
    Memory.backed (m.filter q) = true := by
  simp only [Memory.backed, List.all_eq_true, List.mem_filter] at *
  exact fun c hc => hm c hc.1

theorem Memory.above_filter {m : Memory} {k : Nat} (q : Host.Cell → Bool) (hm : Memory.above k m = true) :
    Memory.above k (m.filter q) = true := by
  simp only [Memory.above, List.all_eq_true, List.mem_filter] at *
  exact fun c hc => hm c hc.1

theorem Memory.wf_filter (q : Host.Cell → Bool) : ∀ {m : Memory}, Memory.wf m = true → Memory.wf (m.filter q) = true
  | [], _ => rfl
  | (k, b) :: rest, hm => by
    rw [Memory.wf_cons] at hm
    have ih := Memory.wf_filter q hm.2.2
    rw [List.filter_cons]
    split_ifs
    · rw [Memory.wf_cons]
      exact ⟨hm.1, Memory.above_filter q hm.2.1, ih⟩
    · exact ih

/-- Two canonical memories, every key of the first below `k` and none of the second, join to a canonical one. -/
theorem Memory.wf_append {k : Nat} {n : Memory} (hn : Memory.wf n = true) (hk : Memory.above k n = true) :
    ∀ {m : Memory}, Memory.wf m = true → (∀ c ∈ m, c.1 < k) → Memory.wf (m ++ n) = true
  | [], _, _ => hn
  | (j, b) :: rest, hm, hlt => by
    rw [Memory.wf_cons] at hm
    have hj : j < k := hlt (j, b) (by simp)
    have ih := Memory.wf_append hn hk hm.2.2 fun c hc => hlt c (by simp [hc])
    rw [List.cons_append, Memory.wf_cons]
    refine ⟨hm.1, ?_, ih⟩
    have h1 := hm.2.1
    have h2 := Memory.above_mono (k := j + 1) (by omega) hk
    unfold Memory.above at *
    rw [List.all_append, h1, h2]
    rfl

end Sys2Proof.Machine
end

