-- ==== Sys2Proof/Laws/State.lean ====
section
/-!
SUPPORT. Sys2Proof/Laws/State.lean: what each setter of a field does to each field, one lemma for each pair, so that
no later proof unfolds a record update.
-/

namespace Sys2Proof.Machine.State

variable (s : State)

@[ext] theorem ext_fields {s t : State} (h_a : s.a = t.a) (h_x : s.x = t.x) (h_y : s.y = t.y) (h_sp : s.sp = t.sp) (h_p : s.p = t.p) (h_pc : s.pc = t.pc) (h_faulted : s.faulted = t.faulted) (h_mem : s.mem = t.mem) (h_irqPending : s.irqPending = t.irqPending) (h_events : s.events = t.events) (h_trace : s.trace = t.trace) (h_draws : s.draws = t.draws) (h_started : s.started = t.started) (h_agenda : s.agenda = t.agenda) (h_driver : s.driver = t.driver) (h_opcodeMap : s.opcodeMap = t.opcodeMap) : s = t := by
  cases s; cases t; simp_all

@[simp] theorem setA_a (v : Byte) : (s.setA v).a = v := rfl
@[simp] theorem setA_x (v : Byte) : (s.setA v).x = s.x := rfl
@[simp] theorem setA_y (v : Byte) : (s.setA v).y = s.y := rfl
@[simp] theorem setA_sp (v : Byte) : (s.setA v).sp = s.sp := rfl
@[simp] theorem setA_p (v : Byte) : (s.setA v).p = s.p := rfl
@[simp] theorem setA_pc (v : Byte) : (s.setA v).pc = s.pc := rfl
@[simp] theorem setA_faulted (v : Byte) : (s.setA v).faulted = s.faulted := rfl
@[simp] theorem setA_mem (v : Byte) : (s.setA v).mem = s.mem := rfl
@[simp] theorem setA_irqPending (v : Byte) : (s.setA v).irqPending = s.irqPending := rfl
@[simp] theorem setA_events (v : Byte) : (s.setA v).events = s.events := rfl
@[simp] theorem setA_trace (v : Byte) : (s.setA v).trace = s.trace := rfl
@[simp] theorem setA_draws (v : Byte) : (s.setA v).draws = s.draws := rfl
@[simp] theorem setA_started (v : Byte) : (s.setA v).started = s.started := rfl
@[simp] theorem setA_agenda (v : Byte) : (s.setA v).agenda = s.agenda := rfl
@[simp] theorem setA_driver (v : Byte) : (s.setA v).driver = s.driver := rfl
@[simp] theorem setA_opcodeMap (v : Byte) : (s.setA v).opcodeMap = s.opcodeMap := rfl

@[simp] theorem setX_a (v : Byte) : (s.setX v).a = s.a := rfl
@[simp] theorem setX_x (v : Byte) : (s.setX v).x = v := rfl
@[simp] theorem setX_y (v : Byte) : (s.setX v).y = s.y := rfl
@[simp] theorem setX_sp (v : Byte) : (s.setX v).sp = s.sp := rfl
@[simp] theorem setX_p (v : Byte) : (s.setX v).p = s.p := rfl
@[simp] theorem setX_pc (v : Byte) : (s.setX v).pc = s.pc := rfl
@[simp] theorem setX_faulted (v : Byte) : (s.setX v).faulted = s.faulted := rfl
@[simp] theorem setX_mem (v : Byte) : (s.setX v).mem = s.mem := rfl
@[simp] theorem setX_irqPending (v : Byte) : (s.setX v).irqPending = s.irqPending := rfl
@[simp] theorem setX_events (v : Byte) : (s.setX v).events = s.events := rfl
@[simp] theorem setX_trace (v : Byte) : (s.setX v).trace = s.trace := rfl
@[simp] theorem setX_draws (v : Byte) : (s.setX v).draws = s.draws := rfl
@[simp] theorem setX_started (v : Byte) : (s.setX v).started = s.started := rfl
@[simp] theorem setX_agenda (v : Byte) : (s.setX v).agenda = s.agenda := rfl
@[simp] theorem setX_driver (v : Byte) : (s.setX v).driver = s.driver := rfl
@[simp] theorem setX_opcodeMap (v : Byte) : (s.setX v).opcodeMap = s.opcodeMap := rfl

@[simp] theorem setY_a (v : Byte) : (s.setY v).a = s.a := rfl
@[simp] theorem setY_x (v : Byte) : (s.setY v).x = s.x := rfl
@[simp] theorem setY_y (v : Byte) : (s.setY v).y = v := rfl
@[simp] theorem setY_sp (v : Byte) : (s.setY v).sp = s.sp := rfl
@[simp] theorem setY_p (v : Byte) : (s.setY v).p = s.p := rfl
@[simp] theorem setY_pc (v : Byte) : (s.setY v).pc = s.pc := rfl
@[simp] theorem setY_faulted (v : Byte) : (s.setY v).faulted = s.faulted := rfl
@[simp] theorem setY_mem (v : Byte) : (s.setY v).mem = s.mem := rfl
@[simp] theorem setY_irqPending (v : Byte) : (s.setY v).irqPending = s.irqPending := rfl
@[simp] theorem setY_events (v : Byte) : (s.setY v).events = s.events := rfl
@[simp] theorem setY_trace (v : Byte) : (s.setY v).trace = s.trace := rfl
@[simp] theorem setY_draws (v : Byte) : (s.setY v).draws = s.draws := rfl
@[simp] theorem setY_started (v : Byte) : (s.setY v).started = s.started := rfl
@[simp] theorem setY_agenda (v : Byte) : (s.setY v).agenda = s.agenda := rfl
@[simp] theorem setY_driver (v : Byte) : (s.setY v).driver = s.driver := rfl
@[simp] theorem setY_opcodeMap (v : Byte) : (s.setY v).opcodeMap = s.opcodeMap := rfl

@[simp] theorem setSp_a (v : Byte) : (s.setSp v).a = s.a := rfl
@[simp] theorem setSp_x (v : Byte) : (s.setSp v).x = s.x := rfl
@[simp] theorem setSp_y (v : Byte) : (s.setSp v).y = s.y := rfl
@[simp] theorem setSp_sp (v : Byte) : (s.setSp v).sp = v := rfl
@[simp] theorem setSp_p (v : Byte) : (s.setSp v).p = s.p := rfl
@[simp] theorem setSp_pc (v : Byte) : (s.setSp v).pc = s.pc := rfl
@[simp] theorem setSp_faulted (v : Byte) : (s.setSp v).faulted = s.faulted := rfl
@[simp] theorem setSp_mem (v : Byte) : (s.setSp v).mem = s.mem := rfl
@[simp] theorem setSp_irqPending (v : Byte) : (s.setSp v).irqPending = s.irqPending := rfl
@[simp] theorem setSp_events (v : Byte) : (s.setSp v).events = s.events := rfl
@[simp] theorem setSp_trace (v : Byte) : (s.setSp v).trace = s.trace := rfl
@[simp] theorem setSp_draws (v : Byte) : (s.setSp v).draws = s.draws := rfl
@[simp] theorem setSp_started (v : Byte) : (s.setSp v).started = s.started := rfl
@[simp] theorem setSp_agenda (v : Byte) : (s.setSp v).agenda = s.agenda := rfl
@[simp] theorem setSp_driver (v : Byte) : (s.setSp v).driver = s.driver := rfl
@[simp] theorem setSp_opcodeMap (v : Byte) : (s.setSp v).opcodeMap = s.opcodeMap := rfl

@[simp] theorem setP_a (v : Byte) : (s.setP v).a = s.a := rfl
@[simp] theorem setP_x (v : Byte) : (s.setP v).x = s.x := rfl
@[simp] theorem setP_y (v : Byte) : (s.setP v).y = s.y := rfl
@[simp] theorem setP_sp (v : Byte) : (s.setP v).sp = s.sp := rfl
@[simp] theorem setP_p (v : Byte) : (s.setP v).p = v := rfl
@[simp] theorem setP_pc (v : Byte) : (s.setP v).pc = s.pc := rfl
@[simp] theorem setP_faulted (v : Byte) : (s.setP v).faulted = s.faulted := rfl
@[simp] theorem setP_mem (v : Byte) : (s.setP v).mem = s.mem := rfl
@[simp] theorem setP_irqPending (v : Byte) : (s.setP v).irqPending = s.irqPending := rfl
@[simp] theorem setP_events (v : Byte) : (s.setP v).events = s.events := rfl
@[simp] theorem setP_trace (v : Byte) : (s.setP v).trace = s.trace := rfl
@[simp] theorem setP_draws (v : Byte) : (s.setP v).draws = s.draws := rfl
@[simp] theorem setP_started (v : Byte) : (s.setP v).started = s.started := rfl
@[simp] theorem setP_agenda (v : Byte) : (s.setP v).agenda = s.agenda := rfl
@[simp] theorem setP_driver (v : Byte) : (s.setP v).driver = s.driver := rfl
@[simp] theorem setP_opcodeMap (v : Byte) : (s.setP v).opcodeMap = s.opcodeMap := rfl

@[simp] theorem setPc_a (v : Word) : (s.setPc v).a = s.a := rfl
@[simp] theorem setPc_x (v : Word) : (s.setPc v).x = s.x := rfl
@[simp] theorem setPc_y (v : Word) : (s.setPc v).y = s.y := rfl
@[simp] theorem setPc_sp (v : Word) : (s.setPc v).sp = s.sp := rfl
@[simp] theorem setPc_p (v : Word) : (s.setPc v).p = s.p := rfl
@[simp] theorem setPc_pc (v : Word) : (s.setPc v).pc = v := rfl
@[simp] theorem setPc_faulted (v : Word) : (s.setPc v).faulted = s.faulted := rfl
@[simp] theorem setPc_mem (v : Word) : (s.setPc v).mem = s.mem := rfl
@[simp] theorem setPc_irqPending (v : Word) : (s.setPc v).irqPending = s.irqPending := rfl
@[simp] theorem setPc_events (v : Word) : (s.setPc v).events = s.events := rfl
@[simp] theorem setPc_trace (v : Word) : (s.setPc v).trace = s.trace := rfl
@[simp] theorem setPc_draws (v : Word) : (s.setPc v).draws = s.draws := rfl
@[simp] theorem setPc_started (v : Word) : (s.setPc v).started = s.started := rfl
@[simp] theorem setPc_agenda (v : Word) : (s.setPc v).agenda = s.agenda := rfl
@[simp] theorem setPc_driver (v : Word) : (s.setPc v).driver = s.driver := rfl
@[simp] theorem setPc_opcodeMap (v : Word) : (s.setPc v).opcodeMap = s.opcodeMap := rfl

@[simp] theorem setFaulted_a (v : Bool) : (s.setFaulted v).a = s.a := rfl
@[simp] theorem setFaulted_x (v : Bool) : (s.setFaulted v).x = s.x := rfl
@[simp] theorem setFaulted_y (v : Bool) : (s.setFaulted v).y = s.y := rfl
@[simp] theorem setFaulted_sp (v : Bool) : (s.setFaulted v).sp = s.sp := rfl
@[simp] theorem setFaulted_p (v : Bool) : (s.setFaulted v).p = s.p := rfl
@[simp] theorem setFaulted_pc (v : Bool) : (s.setFaulted v).pc = s.pc := rfl
@[simp] theorem setFaulted_faulted (v : Bool) : (s.setFaulted v).faulted = v := rfl
@[simp] theorem setFaulted_mem (v : Bool) : (s.setFaulted v).mem = s.mem := rfl
@[simp] theorem setFaulted_irqPending (v : Bool) : (s.setFaulted v).irqPending = s.irqPending := rfl
@[simp] theorem setFaulted_events (v : Bool) : (s.setFaulted v).events = s.events := rfl
@[simp] theorem setFaulted_trace (v : Bool) : (s.setFaulted v).trace = s.trace := rfl
@[simp] theorem setFaulted_draws (v : Bool) : (s.setFaulted v).draws = s.draws := rfl
@[simp] theorem setFaulted_started (v : Bool) : (s.setFaulted v).started = s.started := rfl
@[simp] theorem setFaulted_agenda (v : Bool) : (s.setFaulted v).agenda = s.agenda := rfl
@[simp] theorem setFaulted_driver (v : Bool) : (s.setFaulted v).driver = s.driver := rfl
@[simp] theorem setFaulted_opcodeMap (v : Bool) : (s.setFaulted v).opcodeMap = s.opcodeMap := rfl

@[simp] theorem setMem_a (v : Memory) : (s.setMem v).a = s.a := rfl
@[simp] theorem setMem_x (v : Memory) : (s.setMem v).x = s.x := rfl
@[simp] theorem setMem_y (v : Memory) : (s.setMem v).y = s.y := rfl
@[simp] theorem setMem_sp (v : Memory) : (s.setMem v).sp = s.sp := rfl
@[simp] theorem setMem_p (v : Memory) : (s.setMem v).p = s.p := rfl
@[simp] theorem setMem_pc (v : Memory) : (s.setMem v).pc = s.pc := rfl
@[simp] theorem setMem_faulted (v : Memory) : (s.setMem v).faulted = s.faulted := rfl
@[simp] theorem setMem_mem (v : Memory) : (s.setMem v).mem = v := rfl
@[simp] theorem setMem_irqPending (v : Memory) : (s.setMem v).irqPending = s.irqPending := rfl
@[simp] theorem setMem_events (v : Memory) : (s.setMem v).events = s.events := rfl
@[simp] theorem setMem_trace (v : Memory) : (s.setMem v).trace = s.trace := rfl
@[simp] theorem setMem_draws (v : Memory) : (s.setMem v).draws = s.draws := rfl
@[simp] theorem setMem_started (v : Memory) : (s.setMem v).started = s.started := rfl
@[simp] theorem setMem_agenda (v : Memory) : (s.setMem v).agenda = s.agenda := rfl
@[simp] theorem setMem_driver (v : Memory) : (s.setMem v).driver = s.driver := rfl
@[simp] theorem setMem_opcodeMap (v : Memory) : (s.setMem v).opcodeMap = s.opcodeMap := rfl

@[simp] theorem setIrqPending_a (v : Bool) : (s.setIrqPending v).a = s.a := rfl
@[simp] theorem setIrqPending_x (v : Bool) : (s.setIrqPending v).x = s.x := rfl
@[simp] theorem setIrqPending_y (v : Bool) : (s.setIrqPending v).y = s.y := rfl
@[simp] theorem setIrqPending_sp (v : Bool) : (s.setIrqPending v).sp = s.sp := rfl
@[simp] theorem setIrqPending_p (v : Bool) : (s.setIrqPending v).p = s.p := rfl
@[simp] theorem setIrqPending_pc (v : Bool) : (s.setIrqPending v).pc = s.pc := rfl
@[simp] theorem setIrqPending_faulted (v : Bool) : (s.setIrqPending v).faulted = s.faulted := rfl
@[simp] theorem setIrqPending_mem (v : Bool) : (s.setIrqPending v).mem = s.mem := rfl
@[simp] theorem setIrqPending_irqPending (v : Bool) : (s.setIrqPending v).irqPending = v := rfl
@[simp] theorem setIrqPending_events (v : Bool) : (s.setIrqPending v).events = s.events := rfl
@[simp] theorem setIrqPending_trace (v : Bool) : (s.setIrqPending v).trace = s.trace := rfl
@[simp] theorem setIrqPending_draws (v : Bool) : (s.setIrqPending v).draws = s.draws := rfl
@[simp] theorem setIrqPending_started (v : Bool) : (s.setIrqPending v).started = s.started := rfl
@[simp] theorem setIrqPending_agenda (v : Bool) : (s.setIrqPending v).agenda = s.agenda := rfl
@[simp] theorem setIrqPending_driver (v : Bool) : (s.setIrqPending v).driver = s.driver := rfl
@[simp] theorem setIrqPending_opcodeMap (v : Bool) : (s.setIrqPending v).opcodeMap = s.opcodeMap := rfl

@[simp] theorem setEvents_a (v : List Event) : (s.setEvents v).a = s.a := rfl
@[simp] theorem setEvents_x (v : List Event) : (s.setEvents v).x = s.x := rfl
@[simp] theorem setEvents_y (v : List Event) : (s.setEvents v).y = s.y := rfl
@[simp] theorem setEvents_sp (v : List Event) : (s.setEvents v).sp = s.sp := rfl
@[simp] theorem setEvents_p (v : List Event) : (s.setEvents v).p = s.p := rfl
@[simp] theorem setEvents_pc (v : List Event) : (s.setEvents v).pc = s.pc := rfl
@[simp] theorem setEvents_faulted (v : List Event) : (s.setEvents v).faulted = s.faulted := rfl
@[simp] theorem setEvents_mem (v : List Event) : (s.setEvents v).mem = s.mem := rfl
@[simp] theorem setEvents_irqPending (v : List Event) : (s.setEvents v).irqPending = s.irqPending := rfl
@[simp] theorem setEvents_events (v : List Event) : (s.setEvents v).events = v := rfl
@[simp] theorem setEvents_trace (v : List Event) : (s.setEvents v).trace = s.trace := rfl
@[simp] theorem setEvents_draws (v : List Event) : (s.setEvents v).draws = s.draws := rfl
@[simp] theorem setEvents_started (v : List Event) : (s.setEvents v).started = s.started := rfl
@[simp] theorem setEvents_agenda (v : List Event) : (s.setEvents v).agenda = s.agenda := rfl
@[simp] theorem setEvents_driver (v : List Event) : (s.setEvents v).driver = s.driver := rfl
@[simp] theorem setEvents_opcodeMap (v : List Event) : (s.setEvents v).opcodeMap = s.opcodeMap := rfl

@[simp] theorem setTrace_a (v : List TraceRecord) : (s.setTrace v).a = s.a := rfl
@[simp] theorem setTrace_x (v : List TraceRecord) : (s.setTrace v).x = s.x := rfl
@[simp] theorem setTrace_y (v : List TraceRecord) : (s.setTrace v).y = s.y := rfl
@[simp] theorem setTrace_sp (v : List TraceRecord) : (s.setTrace v).sp = s.sp := rfl
@[simp] theorem setTrace_p (v : List TraceRecord) : (s.setTrace v).p = s.p := rfl
@[simp] theorem setTrace_pc (v : List TraceRecord) : (s.setTrace v).pc = s.pc := rfl
@[simp] theorem setTrace_faulted (v : List TraceRecord) : (s.setTrace v).faulted = s.faulted := rfl
@[simp] theorem setTrace_mem (v : List TraceRecord) : (s.setTrace v).mem = s.mem := rfl
@[simp] theorem setTrace_irqPending (v : List TraceRecord) : (s.setTrace v).irqPending = s.irqPending := rfl
@[simp] theorem setTrace_events (v : List TraceRecord) : (s.setTrace v).events = s.events := rfl
@[simp] theorem setTrace_trace (v : List TraceRecord) : (s.setTrace v).trace = v := rfl
@[simp] theorem setTrace_draws (v : List TraceRecord) : (s.setTrace v).draws = s.draws := rfl
@[simp] theorem setTrace_started (v : List TraceRecord) : (s.setTrace v).started = s.started := rfl
@[simp] theorem setTrace_agenda (v : List TraceRecord) : (s.setTrace v).agenda = s.agenda := rfl
@[simp] theorem setTrace_driver (v : List TraceRecord) : (s.setTrace v).driver = s.driver := rfl
@[simp] theorem setTrace_opcodeMap (v : List TraceRecord) : (s.setTrace v).opcodeMap = s.opcodeMap := rfl

@[simp] theorem setDraws_a (v : Nat) : (s.setDraws v).a = s.a := rfl
@[simp] theorem setDraws_x (v : Nat) : (s.setDraws v).x = s.x := rfl
@[simp] theorem setDraws_y (v : Nat) : (s.setDraws v).y = s.y := rfl
@[simp] theorem setDraws_sp (v : Nat) : (s.setDraws v).sp = s.sp := rfl
@[simp] theorem setDraws_p (v : Nat) : (s.setDraws v).p = s.p := rfl
@[simp] theorem setDraws_pc (v : Nat) : (s.setDraws v).pc = s.pc := rfl
@[simp] theorem setDraws_faulted (v : Nat) : (s.setDraws v).faulted = s.faulted := rfl
@[simp] theorem setDraws_mem (v : Nat) : (s.setDraws v).mem = s.mem := rfl
@[simp] theorem setDraws_irqPending (v : Nat) : (s.setDraws v).irqPending = s.irqPending := rfl
@[simp] theorem setDraws_events (v : Nat) : (s.setDraws v).events = s.events := rfl
@[simp] theorem setDraws_trace (v : Nat) : (s.setDraws v).trace = s.trace := rfl
@[simp] theorem setDraws_draws (v : Nat) : (s.setDraws v).draws = v := rfl
@[simp] theorem setDraws_started (v : Nat) : (s.setDraws v).started = s.started := rfl
@[simp] theorem setDraws_agenda (v : Nat) : (s.setDraws v).agenda = s.agenda := rfl
@[simp] theorem setDraws_driver (v : Nat) : (s.setDraws v).driver = s.driver := rfl
@[simp] theorem setDraws_opcodeMap (v : Nat) : (s.setDraws v).opcodeMap = s.opcodeMap := rfl

@[simp] theorem setStarted_a (v : Bool) : (s.setStarted v).a = s.a := rfl
@[simp] theorem setStarted_x (v : Bool) : (s.setStarted v).x = s.x := rfl
@[simp] theorem setStarted_y (v : Bool) : (s.setStarted v).y = s.y := rfl
@[simp] theorem setStarted_sp (v : Bool) : (s.setStarted v).sp = s.sp := rfl
@[simp] theorem setStarted_p (v : Bool) : (s.setStarted v).p = s.p := rfl
@[simp] theorem setStarted_pc (v : Bool) : (s.setStarted v).pc = s.pc := rfl
@[simp] theorem setStarted_faulted (v : Bool) : (s.setStarted v).faulted = s.faulted := rfl
@[simp] theorem setStarted_mem (v : Bool) : (s.setStarted v).mem = s.mem := rfl
@[simp] theorem setStarted_irqPending (v : Bool) : (s.setStarted v).irqPending = s.irqPending := rfl
@[simp] theorem setStarted_events (v : Bool) : (s.setStarted v).events = s.events := rfl
@[simp] theorem setStarted_trace (v : Bool) : (s.setStarted v).trace = s.trace := rfl
@[simp] theorem setStarted_draws (v : Bool) : (s.setStarted v).draws = s.draws := rfl
@[simp] theorem setStarted_started (v : Bool) : (s.setStarted v).started = v := rfl
@[simp] theorem setStarted_agenda (v : Bool) : (s.setStarted v).agenda = s.agenda := rfl
@[simp] theorem setStarted_driver (v : Bool) : (s.setStarted v).driver = s.driver := rfl
@[simp] theorem setStarted_opcodeMap (v : Bool) : (s.setStarted v).opcodeMap = s.opcodeMap := rfl

@[simp] theorem setAgenda_a (v : List Request) : (s.setAgenda v).a = s.a := rfl
@[simp] theorem setAgenda_x (v : List Request) : (s.setAgenda v).x = s.x := rfl
@[simp] theorem setAgenda_y (v : List Request) : (s.setAgenda v).y = s.y := rfl
@[simp] theorem setAgenda_sp (v : List Request) : (s.setAgenda v).sp = s.sp := rfl
@[simp] theorem setAgenda_p (v : List Request) : (s.setAgenda v).p = s.p := rfl
@[simp] theorem setAgenda_pc (v : List Request) : (s.setAgenda v).pc = s.pc := rfl
@[simp] theorem setAgenda_faulted (v : List Request) : (s.setAgenda v).faulted = s.faulted := rfl
@[simp] theorem setAgenda_mem (v : List Request) : (s.setAgenda v).mem = s.mem := rfl
@[simp] theorem setAgenda_irqPending (v : List Request) : (s.setAgenda v).irqPending = s.irqPending := rfl
@[simp] theorem setAgenda_events (v : List Request) : (s.setAgenda v).events = s.events := rfl
@[simp] theorem setAgenda_trace (v : List Request) : (s.setAgenda v).trace = s.trace := rfl
@[simp] theorem setAgenda_draws (v : List Request) : (s.setAgenda v).draws = s.draws := rfl
@[simp] theorem setAgenda_started (v : List Request) : (s.setAgenda v).started = s.started := rfl
@[simp] theorem setAgenda_agenda (v : List Request) : (s.setAgenda v).agenda = v := rfl
@[simp] theorem setAgenda_driver (v : List Request) : (s.setAgenda v).driver = s.driver := rfl
@[simp] theorem setAgenda_opcodeMap (v : List Request) : (s.setAgenda v).opcodeMap = s.opcodeMap := rfl

@[simp] theorem setDriver_a (v : Driver) : (s.setDriver v).a = s.a := rfl
@[simp] theorem setDriver_x (v : Driver) : (s.setDriver v).x = s.x := rfl
@[simp] theorem setDriver_y (v : Driver) : (s.setDriver v).y = s.y := rfl
@[simp] theorem setDriver_sp (v : Driver) : (s.setDriver v).sp = s.sp := rfl
@[simp] theorem setDriver_p (v : Driver) : (s.setDriver v).p = s.p := rfl
@[simp] theorem setDriver_pc (v : Driver) : (s.setDriver v).pc = s.pc := rfl
@[simp] theorem setDriver_faulted (v : Driver) : (s.setDriver v).faulted = s.faulted := rfl
@[simp] theorem setDriver_mem (v : Driver) : (s.setDriver v).mem = s.mem := rfl
@[simp] theorem setDriver_irqPending (v : Driver) : (s.setDriver v).irqPending = s.irqPending := rfl
@[simp] theorem setDriver_events (v : Driver) : (s.setDriver v).events = s.events := rfl
@[simp] theorem setDriver_trace (v : Driver) : (s.setDriver v).trace = s.trace := rfl
@[simp] theorem setDriver_draws (v : Driver) : (s.setDriver v).draws = s.draws := rfl
@[simp] theorem setDriver_started (v : Driver) : (s.setDriver v).started = s.started := rfl
@[simp] theorem setDriver_agenda (v : Driver) : (s.setDriver v).agenda = s.agenda := rfl
@[simp] theorem setDriver_driver (v : Driver) : (s.setDriver v).driver = v := rfl
@[simp] theorem setDriver_opcodeMap (v : Driver) : (s.setDriver v).opcodeMap = s.opcodeMap := rfl

end Sys2Proof.Machine.State
end

