-- ==== Sys2Proof/Laws/Ops.lean ====
section
/-!
SUPPORT. Sys2Proof/Laws/Ops.lean: for each shared operation of Machine/Ops.lean one lemma that says everything it can
do.
-/

namespace Sys2Proof.Machine

/-! ## Sequencing -/

@[simp] theorem andThen_next (s : State) (f : State → Host.Outcome State Fault Refusal) :
    andThen (.next s) f = f s := rfl

@[simp] theorem andThen_refused (r : Refusal) (f : State → Host.Outcome State Fault Refusal) :
    andThen (.refused r) f = .refused r := rfl

@[simp] theorem onNext_next (s : State) (f : State → State) : onNext (.next s) f = .next (f s) := rfl

@[simp] theorem onNext_refused (r : Refusal) (f : State → State) : onNext (.refused r) f = .refused r := rfl

theorem andThen_eq_next {o : Host.Outcome State Fault Refusal} {f : State → Host.Outcome State Fault Refusal}
    {t : State} : andThen o f = .next t ↔ ∃ u, o = .next u ∧ f u = .next t := by
  cases o <;> simp [andThen]

theorem onNext_eq_next {o : Host.Outcome State Fault Refusal} {f : State → State} {t : State} :
    onNext o f = .next t ↔ ∃ u, o = .next u ∧ f u = t := by
  cases o <;> simp [onNext, andThen]

/-! ## Reads -/

theorem OnlyPorts.refl (s : State) : OnlyPorts s s := rfl

theorem OnlyPorts.trans {s t u : State} (h : OnlyPorts s t) (k : OnlyPorts t u) : OnlyPorts s u := by
  unfold OnlyPorts at *
  rw [k, h]

theorem onlyPorts_portRead (call : Byte → Event) (s : State) : OnlyPorts s (portRead call s).2 := rfl

theorem onlyPorts_softRead (addr : Word) (s : State) : OnlyPorts s (softRead addr s).2 := rfl

/-- A read changes at most the recorded events and the draws. -/
theorem memRead_onlyPorts (addr : Word) (s : State) : OnlyPorts s (memRead addr s).2 := by
  unfold memRead gfxRead
  dsimp only
  split_ifs
  · rfl
  · split <;> rfl
  all_goals rfl

/-- A read of RAM (20_memory R56). -/
theorem memRead_ram {addr : Word} (h : addr.toNat < 0x2000) (s : State) :
    memRead addr s = (s.mem.read (addr.toNat % 0x800), s) := by
  simp [memRead, h]

/-- A read of ROM (20_memory R57). -/
theorem memRead_rom {addr : Word} (h : 0x8000 ≤ addr.toNat) (s : State) :
    memRead addr s = (s.mem.read addr.toNat, s) := by
  unfold memRead
  dsimp only
  rw [if_neg (by omega), if_neg (by omega), if_neg (by omega), if_neg (by omega), if_neg (by omega)]

/-- A read of a backed byte is a look at it. -/
theorem memRead_cell {addr : Word} (h : (cellOf addr).isSome) (s : State) : memRead addr s = (peek s addr, s) := by
  unfold cellOf at h
  dsimp only at h
  split_ifs at h with h1 h2
  · rw [memRead_ram h1]
    simp [peek, cellOf, h1]
  · simp at h
  · rw [memRead_rom (by omega)]
    simp [peek, cellOf, h1, h2]

/-! ## Writes -/

/-- Everything a bus write can do: one RAM cell, or one recorded event, or the refusal of an OAM DMA whose source is
not RAM (20_memory R53). -/
theorem memWrite_cases (addr : Word) (v : Byte) (s : State) :
    (addr.toNat < 0x2000 ∧ memWrite addr v s = .next (s.setMem (s.mem.write (addr.toNat % 0x800) v))) ∨
    (0x2000 ≤ addr.toNat ∧ ¬ (addr.toNat = 0x4014 ∧ 0x20 ≤ v.toNat) ∧ ∃ e, memWrite addr v s = .next (emit e s)) ∨
    (addr.toNat = 0x4014 ∧ 0x20 ≤ v.toNat ∧ memWrite addr v s = .refused (.oamDmaSourceNotRam v)) := by
  unfold memWrite gfxWrite softWrite oamDma
  dsimp only
  split_ifs with h1 h2 h3 h4 h5
  · exact .inl ⟨h1, rfl⟩
  · exact .inr (.inl ⟨by omega, by omega, by split <;> exact ⟨_, rfl⟩⟩)
  · exact .inr (.inl ⟨by omega, by omega, _, rfl⟩)
  · exact .inr (.inl ⟨by omega, by omega, _, rfl⟩)
  · exact .inr (.inr ⟨h4, by omega, rfl⟩)
  all_goals exact .inr (.inl ⟨by omega, by omega, _, rfl⟩)

/-- A write to RAM. -/
theorem memWrite_ram {addr : Word} (h : addr.toNat < 0x2000) (v : Byte) (s : State) :
    memWrite addr v s = .next (s.setMem (s.mem.write (addr.toNat % 0x800) v)) := by
  simp [memWrite, h]

/-! ## The stack -/

theorem toNat_stackAddr (sp : Byte) : (stackAddr sp).toNat = 0x100 + sp.toNat := by
  have := sp.isLt
  simp only [stackAddr, BitVec.toNat_ofNat]
  omega

/-- `Push` always completes: the byte in the stack cell, then SP less one (10_state R31). -/
theorem push_eq (v : Byte) (s : State) :
    push v s = .next ((s.setMem (s.mem.write (0x100 + s.sp.toNat) v)).setSp (s.sp - 1)) := by
  have := s.sp.isLt
  rw [push, memWrite_ram (by rw [toNat_stackAddr]; omega), toNat_stackAddr, Nat.mod_eq_of_lt (by omega)]
  rfl

/-- `Pop`: SP plus one, then the byte of the stack cell (10_state R32). -/
theorem pop_eq (s : State) : pop s = (s.mem.read (0x100 + (s.sp + 1).toNat), s.setSp (s.sp + 1)) := by
  have := (s.sp + 1).isLt
  rw [pop, memRead_ram (by rw [State.setSp_sp, toNat_stackAddr]; omega), State.setSp_sp, State.setSp_mem, toNat_stackAddr,
    Nat.mod_eq_of_lt (by omega)]

/-- The memory after two pushes. -/
theorem pushAddress_eq (r : Word) (s : State) :
    pushAddress r s = .next
      ((s.setMem ((s.mem.write (0x100 + s.sp.toNat) (loByte r)).write (0x100 + (s.sp - 1).toNat) (hiByte r))).setSp
        (s.sp - 2)) := by
  have h : s.sp - 1 - 1 = s.sp - 2 := by
    rw [BitVec.sub_sub]
    rfl
  simp only [pushAddress, push_eq, andThen_next, State.setSp_sp, State.setSp_mem, State.setMem_mem, h]
  rfl

theorem popAddress_eq (s : State) :
    popAddress s =
      (wordOf (s.mem.read (0x100 + (s.sp + 1).toNat)) (s.mem.read (0x100 + (s.sp + 2).toNat)) + 1,
        s.setSp (s.sp + 2)) := by
  have h : s.sp + 1 + 1 = s.sp + 2 := by
    rw [BitVec.add_assoc]
    rfl
  simp only [popAddress, pop_eq, State.setSp_sp, State.setSp_mem, h]
  rfl

/-- Reading a word of ROM. -/
theorem readWord_rom {addr : Word} (h : 0x8000 ≤ addr.toNat) (h1 : addr.toNat + 1 < 0x10000) (s : State) :
    readWord addr s = (wordOf (s.mem.read (addr.toNat + 1)) (s.mem.read addr.toNat), s) := by
  have h2 : (addr + 1).toNat = addr.toNat + 1 := by
    rw [BitVec.toNat_add]
    simp
    omega
  simp only [readWord, memRead_rom h, memRead_rom (addr := addr + 1) (by omega), h2]

/-- Taking an interrupt always completes, when the vector lies in ROM: three bytes pushed, the status byte with I set,
and PC from the vector (60_exceptions R246). -/
theorem interruptSequence_eq {vector : Word} (hv : 0x8000 ≤ vector.toNat) (hv1 : vector.toNat + 1 < 0x10000)
    (force : Bool) (s : State) :
    let p := if force then forceReserved s.p else s.p
    let m := ((s.mem.write (0x100 + s.sp.toNat) (loByte (s.pc - 1))).write (0x100 + (s.sp - 1).toNat)
      (hiByte (s.pc - 1))).write (0x100 + (s.sp - 2).toNat) p
    interruptSequence vector force s = .next
      { s with
        sp := s.sp - 3
        p := putFlag .i true p
        mem := m
        pc := wordOf (m.read (vector.toNat + 1)) (m.read vector.toNat) } := by
  have h : s.sp - 2 - 1 = s.sp - 3 := by
    rw [BitVec.sub_sub]
    rfl
  cases force <;>
    simp only [interruptSequence, pushAddress_eq, push_eq, andThen_next, readWord_rom hv hv1, State.setSp_sp,
      State.setMem_mem, State.setSp_mem, State.setSp_p, State.setMem_p, State.setP_p, State.setP_sp, State.setP_mem,
      if_true, Bool.false_eq_true, if_false, h] <;> rfl

/-- Returning from an interrupt (49_control_transfer R233). -/
theorem returnFromInterrupt_eq (s : State) :
    returnFromInterrupt s =
      { s with
        sp := s.sp + 3
        p := s.mem.read (0x100 + (s.sp + 1).toNat)
        pc := wordOf (s.mem.read (0x100 + (s.sp + 2).toNat)) (s.mem.read (0x100 + (s.sp + 3).toNat)) + 1 } := by
  have h1 : s.sp + 1 + 1 = s.sp + 2 := by
    rw [BitVec.add_assoc]
    rfl
  have h2 : s.sp + 1 + 2 = s.sp + 3 := by
    rw [BitVec.add_assoc]
    rfl
  simp only [returnFromInterrupt, pop_eq, popAddress_eq, State.setP_sp, State.setP_mem, State.setSp_sp, State.setSp_mem,
    h1, h2]
  rfl

end Sys2Proof.Machine
end

