-- ==== Sys2Proof/Laws/Operands.lean ====
section
/-!
SUPPORT. Sys2Proof/Laws/Operands.lean: for each shared operation of Machine/Operands.lean what it can do, and which
instruction has which shape.
-/

namespace Sys2Proof.Machine

/-- Computing an effective address changes at most the recorded events and the draws. -/
theorem effectiveAddress_onlyPorts (o : Place) (s : State) : OnlyPorts s (effectiveAddress o s).2 := by
  cases o with
  | indx d => exact (memRead_onlyPorts _ s).trans (memRead_onlyPorts _ _)
  | indy d => exact (memRead_onlyPorts _ s).trans (memRead_onlyPorts _ _)
  | ind a => exact (memRead_onlyPorts _ s).trans (memRead_onlyPorts _ _)
  | _ => rfl

/-- Reading a place changes at most the recorded events and the draws. -/
theorem readPlace_onlyPorts (o : Place) (s : State) : OnlyPorts s (readPlace o s).2 :=
  (effectiveAddress_onlyPorts o s).trans (memRead_onlyPorts _ _)

/-- Taking an operand value changes at most the recorded events and the draws. -/
theorem operandValue_onlyPorts {o : Operand} {s u : State} {m : Byte} (h : operandValue o s = some (m, u)) :
    OnlyPorts s u := by
  cases o with
  | memory p =>
    have hp := readPlace_onlyPorts p s
    rw [Option.some.inj h] at hp
    exact hp
  | implied => exact absurd h (by simp [operandValue])
  | relative d => exact absurd h (by simp [operandValue])
  | accumulator => rw [← (Prod.mk.inj (Option.some.inj h)).2]; exact OnlyPorts.refl s
  | immediate d => rw [← (Prod.mk.inj (Option.some.inj h)).2]; exact OnlyPorts.refl s

/-- Whatever a mnemonic takes of the resolver, taking it changes at most the recorded events and the draws. -/
theorem takeValue_onlyPorts (o : Operand) (s : State) : OnlyPorts s (takeValue o s).2 := by
  unfold takeValue
  split
  · rename_i r h
    exact operandValue_onlyPorts (m := r.1) (u := r.2) h
  · rfl

theorem takePlace_onlyPorts (o : Operand) (s : State) : OnlyPorts s (takePlace o s).2 := by cases o <;> rfl

theorem resolveOnly_onlyPorts (o : Operand) (s : State) : OnlyPorts s (resolveOnly o s) := by
  cases o with
  | memory place => exact effectiveAddress_onlyPorts place s
  | _ => rfl

theorem takeDisplacement_onlyPorts (o : Operand) (s : State) : OnlyPorts s (takeDisplacement o s).2 := by
  cases o with
  | memory place => exact (resolveOnly_onlyPorts (.memory place) s).trans (u := (drawByte (resolveOnly _ s)).2) rfl
  | _ => rfl

/-- The fields that reads leave alone, one by one. -/
theorem OnlyPorts.fields {s t : State} (h : OnlyPorts s t) :
    t.a = s.a ∧ t.x = s.x ∧ t.y = s.y ∧ t.sp = s.sp ∧ t.p = s.p ∧ t.pc = s.pc ∧ t.faulted = s.faulted ∧
      t.mem = s.mem ∧ t.irqPending = s.irqPending ∧ t.trace = s.trace ∧ t.started = s.started ∧
      t.agenda = s.agenda ∧ t.driver = s.driver ∧ t.opcodeMap = s.opcodeMap := by
  unfold OnlyPorts at h
  rw [h]
  simp

/-! ## Shapes -/

theorem withValue_eq (o : Place) (f : Byte → State → State) (s : State) :
    withValue o f s = .next (f (readPlace o s).1 (readPlace o s).2) := rfl

theorem storePlace_eq (o : Place) (v : State → Byte) (s : State) :
    storePlace o v s = memWrite (effectiveAddress o s).1 (v (effectiveAddress o s).2) (effectiveAddress o s).2 := rfl

theorem modifyPlace_eq (o : Place) (res flags : Byte → Byte → Byte) (s : State) :
    modifyPlace o res flags s =
      let r := readPlace o s
      onNext (memWrite (effectiveAddress o s).1 (res r.2.p r.1) r.2) fun t => t.setP (flags t.p r.1) := rfl

theorem jumpTo_eq (o : Place) (s : State) :
    jumpTo o s = .next ((effectiveAddress o s).2.setPc (effectiveAddress o s).1) := rfl

theorem callTo_eq (o : Place) (s : State) :
    callTo o s = onNext (pushAddress ((effectiveAddress o s).2.pc - 1) (effectiveAddress o s).2)
      fun t => t.setPc (effectiveAddress o s).1 := rfl

/-- A completed write has the effect `WritesAt` says; the one write that does not complete is the refused OAM DMA. -/
theorem memWrite_writesAt {s : State} (hs : Sound s) (ea : Word) (v : Byte) :
    (¬ DmaRefused ea v → ∃ t, memWrite ea v s = .next t ∧ WritesAt ea v s t) ∧
    (DmaRefused ea v → memWrite ea v s = .refused (.oamDmaSourceNotRam v)) := by
  rcases memWrite_cases ea v s with ⟨h, he⟩ | ⟨h, hn, e, he⟩ | ⟨h, hv, he⟩
  · refine ⟨fun _ => ⟨_, he, he, rfl, fun k => ?_, by rw [if_pos h]; rfl⟩, fun hd => absurd hd.1 (by omega)⟩
    by_cases hk : k = ea.toNat % 0x800
    · subst hk
      rw [if_pos ⟨h, rfl⟩]
      exact Memory.read_write_same _ v hs.1
    · rw [if_neg fun hh => hk hh.2]
      exact Memory.read_write_other hk v s.mem
  · refine ⟨fun _ => ⟨_, he, he, rfl, fun k => ?_, by rw [if_neg (by omega)]; exact ⟨e, rfl⟩⟩, fun hd => absurd hd hn⟩
    rw [if_neg fun hh => absurd hh.1 (by omega)]
    rfl
  · exact ⟨fun hd => absurd ⟨h, hv⟩ hd, fun _ => he⟩

/-- No effect on an operand value touches memory. -/
theorem valueEffect_mem {mn : Mnemonic} {f : Byte → State → State} (hf : valueEffect mn = some f) (m : Byte)
    (u : State) : (f m u).mem = u.mem := by
  cases mn <;> cases hf <;> rfl

/-- A value-style instruction takes its operand value, and completes with its effect on it. -/
theorem exec_value {i : Instr} {f : Byte → State → State} (hf : valueEffect i.mnemonic = some f) (s : State) :
    ∃ m u, operandValue i.operand s = some (m, u) ∧ exec i s = .next (f m u) := by
  cases i <;> cases hf <;> exact ⟨_, _, rfl, rfl⟩

/-- A store has a memory mode, and is one `storePlace`. -/
theorem exec_store {i : Instr} {v : State → Byte} (hv : storedRegister i.mnemonic = some v) :
    ∃ place, i.operand = .memory place ∧ ∀ s, exec i s = storePlace place v s := by
  cases i <;> cases hv <;> exact ⟨_, rfl, fun _ => rfl⟩

/-- A read-modify-write instruction that is not in the accumulator mode has a memory mode, and is one `modifyPlace`. -/
theorem exec_modify {i : Instr} {res flags : Byte → Byte → Byte} (hm : modifyEffect i.mnemonic = some (res, flags))
    (ha : i.mode ≠ .acc) :
    ∃ place, i.operand = .memory place ∧ ∀ s, exec i s = modifyPlace place res flags s := by
  cases i <;> first | exact absurd rfl ha | (cases hm <;> exact ⟨_, rfl, fun _ => rfl⟩)

/-! ## RAM -/

/-- `n` is `m` after any number of writes to cells of RAM. -/
inductive RamOnly (m : Memory) : Memory → Prop where
  | refl : RamOnly m m
  | write {n : Memory} (h : RamOnly m n) (k : Nat) (v : Byte) (hk : k < 0x800) : RamOnly m (n.write k v)

theorem RamOnly.trans {m n o : Memory} (h : RamOnly m n) (h' : RamOnly n o) : RamOnly m o := by
  induction h' with
  | refl => exact h
  | write _ k v hk ih => exact ih.write k v hk

/-- Writes to RAM keep the canonical form. -/
theorem RamOnly.wf {m n : Memory} (h : RamOnly m n) (hm : Memory.wf m = true) : Memory.wf n = true := by
  induction h with
  | refl => exact hm
  | write _ k v _ ih => exact Memory.wf_write k v ih

/-- Writes to RAM keep every cell backed. -/
theorem RamOnly.backed {m n : Memory} (h : RamOnly m n) (hm : Memory.backed m = true) : Memory.backed n = true := by
  induction h with
  | refl => exact hm
  | write _ k v hk ih => exact Memory.backed_write (by simp [backedKey, hk]) v ih

/-- Writes to RAM leave every other cell alone. -/
theorem RamOnly.read_of_le {m n : Memory} (h : RamOnly m n) {k : Nat} (hk : 0x800 ≤ k) : n.read k = m.read k := by
  induction h with
  | refl => rfl
  | write _ j v hj ih => rw [Memory.read_write_other (by omega), ih]

theorem memWrite_ramOnly {ea : Word} {v : Byte} {s t : State} (h : memWrite ea v s = .next t) : RamOnly s.mem t.mem := by
  rcases memWrite_cases ea v s with ⟨_, he⟩ | ⟨_, _, e, he⟩ | ⟨_, _, he⟩
  all_goals rw [he] at h
  · cases h
    exact RamOnly.refl.write _ _ (Nat.mod_lt _ (by decide))
  · cases h
    exact RamOnly.refl
  · cases h

theorem push_ramOnly {v : Byte} {s t : State} (h : push v s = .next t) : RamOnly s.mem t.mem := by
  have := s.sp.isLt
  rw [push_eq] at h
  cases h
  exact RamOnly.refl.write _ _ (by omega)

theorem pushAddress_ramOnly {r : Word} {s t : State} (h : pushAddress r s = .next t) : RamOnly s.mem t.mem := by
  obtain ⟨u, hu, ht⟩ := andThen_eq_next.mp h
  exact (push_ramOnly hu).trans (push_ramOnly ht)

theorem withValue_mem {o : Place} {f : Byte → State → State} (hf : ∀ m u, (f m u).mem = u.mem) {s t : State}
    (h : withValue o f s = .next t) : t.mem = s.mem := by
  rw [withValue_eq] at h
  cases h
  rw [hf, (readPlace_onlyPorts o s).fields.2.2.2.2.2.2.2.1]

theorem storePlace_ramOnly {o : Place} {v : State → Byte} {s t : State} (h : storePlace o v s = .next t) :
    RamOnly s.mem t.mem := by
  rw [storePlace_eq] at h
  have := memWrite_ramOnly h
  rwa [(effectiveAddress_onlyPorts o s).fields.2.2.2.2.2.2.2.1] at this

theorem modifyPlace_ramOnly {o : Place} {res flags : Byte → Byte → Byte} {s t : State}
    (h : modifyPlace o res flags s = .next t) : RamOnly s.mem t.mem := by
  rw [modifyPlace_eq] at h
  obtain ⟨u, hu, ht⟩ := onNext_eq_next.mp h
  have := memWrite_ramOnly hu
  rw [(readPlace_onlyPorts o s).fields.2.2.2.2.2.2.2.1] at this
  rw [← ht]
  exact this

theorem jumpTo_mem {o : Place} {s t : State} (h : jumpTo o s = .next t) : t.mem = s.mem := by
  rw [jumpTo_eq] at h
  cases h
  exact (effectiveAddress_onlyPorts o s).fields.2.2.2.2.2.2.2.1

theorem callTo_ramOnly {o : Place} {s t : State} (h : callTo o s = .next t) : RamOnly s.mem t.mem := by
  rw [callTo_eq] at h
  obtain ⟨u, hu, ht⟩ := onNext_eq_next.mp h
  have := pushAddress_ramOnly hu
  rw [(effectiveAddress_onlyPorts o s).fields.2.2.2.2.2.2.2.1] at this
  rw [← ht]
  exact this

/-- An interrupt entry writes RAM only. -/
theorem interruptSequence_ramOnly {vector : Word} {force : Bool} {s t : State}
    (h : interruptSequence vector force s = .next t) : RamOnly s.mem t.mem := by
  unfold interruptSequence at h
  obtain ⟨u, hu, h⟩ := andThen_eq_next.mp h
  obtain ⟨w, hw, h⟩ := andThen_eq_next.mp h
  have h1 := (pushAddress_ramOnly hu).trans (n := u.mem) RamOnly.refl
  have h2 := push_ramOnly hw
  have h3 : t.mem = w.mem := by
    cases h
    exact ((memRead_onlyPorts _ (w.setP _)).trans (memRead_onlyPorts _ _)).fields.2.2.2.2.2.2.2.1
  rw [h3]
  refine h1.trans ?_
  cases force <;> exact h2

end Sys2Proof.Machine
end

