-- ==== Sys2Proof/Laws/Engine.lean ====
section
/-!
SUPPORT. Sys2Proof/Laws/Engine.lean: what the fetch, a step and every other request can do, each said once.
-/

namespace Sys2Proof.Machine

/-! ## Fetch -/

/-- `t` differs from `s` at most in PC, the recorded events and the draws: what fetching may change. -/
def OnlyFetch (s t : State) : Prop := t = { s with pc := t.pc, events := t.events, draws := t.draws }

theorem OnlyFetch.trans {s t u : State} (h : OnlyFetch s t) (k : OnlyFetch t u) : OnlyFetch s u := by
  unfold OnlyFetch at *
  rw [k, h]

/-- The fields that fetching leaves alone, one by one. -/
theorem OnlyFetch.fields {s t : State} (h : OnlyFetch s t) :
    t.a = s.a ∧ t.x = s.x ∧ t.y = s.y ∧ t.sp = s.sp ∧ t.p = s.p ∧ t.faulted = s.faulted ∧ t.mem = s.mem ∧
      t.irqPending = s.irqPending ∧ t.trace = s.trace ∧ t.started = s.started ∧ t.agenda = s.agenda ∧
      t.driver = s.driver ∧ t.opcodeMap = s.opcodeMap := by
  unfold OnlyFetch at h
  rw [h]
  simp

theorem fetch_onlyFetch (s : State) : OnlyFetch s (fetch s).2 := by
  have h : OnlyPorts s (memRead s.pc s).2 := memRead_onlyPorts s.pc s
  have e : (fetch s).2 = (memRead s.pc s).2.setPc ((memRead s.pc s).2.pc + 1) := rfl
  unfold OnlyPorts at h
  unfold OnlyFetch
  rw [e, h]
  rfl

theorem fetch_pc (s : State) : (fetch s).2.pc = s.pc + 1 := by
  have e : (fetch s).2.pc = (memRead s.pc s).2.pc + 1 := rfl
  rw [e, (memRead_onlyPorts s.pc s).fields.2.2.2.2.2.1]

/-- Fetching from RAM or ROM reads the byte there and only advances PC. -/
theorem fetch_cell {s : State} (h : (cellOf s.pc).isSome) : fetch s = (peek s s.pc, s.setPc (s.pc + 1)) := by
  unfold fetch
  rw [memRead_cell h]

/-- Fetching an instruction changes at most PC, the recorded events and the draws. -/
theorem fetchInstr_onlyFetch (s : State) : OnlyFetch s (fetchInstr s).2 := by
  have h1 := fetch_onlyFetch s
  have h2 := h1.trans (fetch_onlyFetch (fetch s).2)
  have h3 := h2.trans (fetch_onlyFetch (fetch (fetch s).2).2)
  unfold fetchInstr
  dsimp only
  split
  · exact h1
  · exact h1
  · exact h2
  · exact h3

/-- Fetching operand bytes changes at most PC, the recorded events and the draws. -/
theorem fetchOperand_onlyFetch (md : Mode) (s : State) : OnlyFetch s (fetchOperand md s).2 := by
  have h1 := fetch_onlyFetch s
  have h2 := h1.trans (fetch_onlyFetch (fetch s).2)
  cases md <;> first | rfl | exact h1 | exact h2

/-! ## What exec can do -/

/-- `t` agrees with `s` on the fields no instruction writes: the fault latch, the IRQ level, the trace, the mark, the
schedule and OPCODE_MAP. -/
def SameMachinery (s t : State) : Prop :=
  t.faulted = s.faulted ∧ t.irqPending = s.irqPending ∧ t.trace = s.trace ∧ t.started = s.started ∧
    t.agenda = s.agenda ∧ t.driver = s.driver ∧ t.opcodeMap = s.opcodeMap

theorem SameMachinery.trans {s t u : State} (h : SameMachinery s t) (k : SameMachinery t u) : SameMachinery s u := by
  unfold SameMachinery at *
  simp only [k, h, and_self]

/-- Reads of the bus keep the fields no instruction writes. -/
theorem OnlyPorts.sameMachinery {s t : State} (h : OnlyPorts s t) : SameMachinery s t :=
  h.fields.2.2.2.2.2.2.imp_right And.right


/-- A completed write changes memory and the recorded events only. -/
theorem memWrite_frame {ea : Word} {v : Byte} {s t : State} (h : memWrite ea v s = .next t) :
    t = { s with mem := t.mem, events := t.events } := by
  rcases memWrite_cases ea v s with ⟨_, he⟩ | ⟨_, _, e, he⟩ | ⟨_, _, he⟩
  all_goals
    rw [he] at h
    cases h
  all_goals rfl

/-- Every completed instruction: a value-style one applies its effect to the operand value; a store writes and nothing
else; a memory form that modifies writes, and its flags; or it is one of the other 34 constructors (the four
accumulator forms among them). -/
theorem exec_cases {i : Instr} {s t : State} (h : exec i s = .next t) :
    (∃ f m u, valueEffect i.mnemonic = some f ∧ OnlyPorts s u ∧ t = f m u) ∨
    (∃ v u, storedRegister i.mnemonic = some v ∧ OnlyPorts s u ∧ t = { u with mem := t.mem, events := t.events }) ∨
    (∃ res flags old u, modifyEffect i.mnemonic = some (res, flags) ∧ i.mode ≠ .acc ∧ OnlyPorts s u ∧
      t = { u with mem := t.mem, events := t.events, p := flags s.p old }) ∨
    (valueEffect i.mnemonic = none ∧ storedRegister i.mnemonic = none ∧
      (modifyEffect i.mnemonic = none ∨ i.mode = .acc)) := by
  cases hv : valueEffect i.mnemonic with
  | some f =>
    obtain ⟨m, u, hu, he⟩ := exec_value hv s
    rw [he] at h
    cases h
    exact .inl ⟨f, m, u, rfl, operandValue_onlyPorts hu, rfl⟩
  | none =>
  right
  cases hr : storedRegister i.mnemonic with
  | some v =>
    obtain ⟨p, _, he⟩ := exec_store hr
    rw [he, storePlace_eq] at h
    exact .inl ⟨v, _, rfl, effectiveAddress_onlyPorts p s, memWrite_frame h⟩
  | none =>
  right
  cases hm : modifyEffect i.mnemonic with
  | none => exact .inr ⟨rfl, rfl, .inl rfl⟩
  | some e =>
    by_cases ha : i.mode = .acc
    · exact .inr ⟨rfl, rfl, .inr ha⟩
    · obtain ⟨p, _, he⟩ := exec_modify (res := e.1) (flags := e.2) hm ha
      rw [he, modifyPlace_eq] at h
      obtain ⟨w, hw, ht⟩ := onNext_eq_next.mp h
      have hp := (readPlace_onlyPorts p s).fields.2.2.2.2.1
      refine .inl ⟨e.1, e.2, (readPlace p s).1, _, rfl, ha, readPlace_onlyPorts p s, ?_⟩
      have hf := memWrite_frame hw
      have hwp : w.p = s.p := by
        rw [hf]
        exact hp
      rw [← ht, hwp]
      conv_lhs => rw [hf]
      rfl

/-! ## The rules of the mnemonics -/

/-- On a row of the table a mnemonic's rule is the meaning exec gives. -/
theorem exec_eq_runRule (i : Instr) (s : State) : exec i s = runRule i.mnemonic i.operand s := by cases i <;> rfl

/-- Everything a mnemonic's rule can do on an operand of any mode, `u` being the state once it has taken what it needs:
an effect on a byte; a write; a modification; a jump; a call; a branch; or what the mnemonic does alone. -/
theorem runRule_cases {mn : Mnemonic} {o : Operand} {s t : State} (h : runRule mn o s = .next t) :
    ∃ u, OnlyPorts s u ∧
      ((∃ f m, ruleOf mn = .value f ∧ t = f m u) ∨
        (∃ v, ruleOf mn = .store v ∧ (t = u.setA (v u) ∨ ∃ place, storePlace place v u = .next t)) ∨
        (∃ res flags, ruleOf mn = .modify res flags ∧
          (t = (u.setA (res u.p u.a)).setP (flags u.p u.a) ∨ ∃ place, modifyPlace place res flags u = .next t)) ∨
        (ruleOf mn = .jump ∧ ∃ place, jumpTo place u = .next t) ∨
        (ruleOf mn = .call ∧ ∃ place, callTo place u = .next t) ∨
        (∃ test d, ruleOf mn = .branch test ∧ branchIf (test u.p) d u = .next t) ∨
        ∃ run, ruleOf mn = .alone run ∧ run u = .next t) := by
  unfold runRule at h
  dsimp only at h
  split at h
  case h_1 _ f hr => exact ⟨_, takeValue_onlyPorts _ s, .inl ⟨f, _, hr, (Host.Outcome.next.inj h).symm⟩⟩
  case h_2 v hr => exact ⟨s, rfl, .inr (.inl ⟨v, hr, .inl (Host.Outcome.next.inj h).symm⟩)⟩
  case h_3 _ v hr _ => exact ⟨_, takePlace_onlyPorts _ s, .inr (.inl ⟨v, hr, .inr ⟨_, h⟩⟩)⟩
  case h_4 res flags hr => exact ⟨s, rfl, .inr (.inr (.inl ⟨res, flags, hr, .inl (Host.Outcome.next.inj h).symm⟩))⟩
  case h_5 _ res flags hr _ => exact ⟨_, takePlace_onlyPorts _ s, .inr (.inr (.inl ⟨res, flags, hr, .inr ⟨_, h⟩⟩))⟩
  case h_6 hr => exact ⟨_, takePlace_onlyPorts _ s, .inr (.inr (.inr (.inl ⟨hr, _, h⟩)))⟩
  case h_7 hr => exact ⟨_, takePlace_onlyPorts _ s, .inr (.inr (.inr (.inr (.inl ⟨hr, _, h⟩))))⟩
  case h_8 _ test hr =>
    exact ⟨_, takeDisplacement_onlyPorts _ s, .inr (.inr (.inr (.inr (.inr (.inl ⟨test, _, hr, h⟩)))))⟩
  case h_9 _ run hr =>
    exact ⟨_, resolveOnly_onlyPorts _ s, .inr (.inr (.inr (.inr (.inr (.inr ⟨run, hr, h⟩)))))⟩

/-- Every effect on a byte keeps memory and the fields no instruction writes. -/
theorem valueRule_keeps {mn : Mnemonic} {f : Byte → State → State} (hf : ruleOf mn = .value f) (m : Byte) (u : State) :
    (f m u).mem = u.mem ∧ SameMachinery u (f m u) := by
  cases mn <;> cases hf <;> exact ⟨rfl, rfl, rfl, rfl, rfl, rfl, rfl, rfl⟩

/-- What a mnemonic does alone writes at most cells of RAM, and keeps the fields no instruction writes. -/
theorem aloneRule_keeps {mn : Mnemonic} {run : State → Host.Outcome State Fault Refusal} (hr : ruleOf mn = .alone run)
    {u t : State} (h : run u = .next t) : RamOnly u.mem t.mem ∧ SameMachinery u t := by
  cases mn <;> cases hr
  case pha =>
    refine ⟨push_ramOnly h, ?_⟩
    rw [execPha, push_eq] at h
    cases h
    exact ⟨rfl, rfl, rfl, rfl, rfl, rfl, rfl⟩
  case php =>
    refine ⟨push_ramOnly (s := u.setP (forceReserved u.p)) h, ?_⟩
    rw [execPhp, push_eq] at h
    cases h
    exact ⟨rfl, rfl, rfl, rfl, rfl, rfl, rfl⟩
  case brk =>
    refine ⟨interruptSequence_ramOnly h, ?_⟩
    rw [execBrk, interruptSequence_eq (by decide) (by decide)] at h
    cases h
    exact ⟨rfl, rfl, rfl, rfl, rfl, rfl, rfl⟩
  case pla =>
    rw [execPla, pop_eq] at h
    cases h
    exact ⟨RamOnly.refl, rfl, rfl, rfl, rfl, rfl, rfl, rfl⟩
  case plp =>
    rw [execPlp, pop_eq] at h
    cases h
    exact ⟨RamOnly.refl, rfl, rfl, rfl, rfl, rfl, rfl, rfl⟩
  case rts =>
    rw [execRts, popAddress_eq] at h
    cases h
    exact ⟨RamOnly.refl, rfl, rfl, rfl, rfl, rfl, rfl, rfl⟩
  case rti =>
    rw [execRti, returnFromInterrupt_eq] at h
    cases h
    exact ⟨RamOnly.refl, rfl, rfl, rfl, rfl, rfl, rfl, rfl⟩
  all_goals
    cases h
    exact ⟨RamOnly.refl, rfl, rfl, rfl, rfl, rfl, rfl, rfl⟩

/-- A mnemonic's rule, on an operand of any mode, writes at most cells of RAM, and keeps the fields no instruction
writes. -/
theorem runRule_keeps {mn : Mnemonic} {o : Operand} {s t : State} (h : runRule mn o s = .next t) :
    RamOnly s.mem t.mem ∧ SameMachinery s t := by
  obtain ⟨u, hu, h⟩ := runRule_cases h
  have hm : u.mem = s.mem := hu.fields.2.2.2.2.2.2.2.1
  suffices RamOnly u.mem t.mem ∧ SameMachinery u t from ⟨hm ▸ this.1, hu.sameMachinery.trans this.2⟩
  rcases h with ⟨f, m, hf, rfl⟩ | ⟨v, _, rfl | ⟨place, h⟩⟩ | ⟨res, flags, _, rfl | ⟨place, h⟩⟩ | ⟨_, place, h⟩ |
    ⟨_, place, h⟩ | ⟨test, d, _, h⟩ | ⟨run, hr, h⟩
  · exact ⟨(valueRule_keeps hf m u).1 ▸ RamOnly.refl, (valueRule_keeps hf m u).2⟩
  · exact ⟨RamOnly.refl, rfl, rfl, rfl, rfl, rfl, rfl, rfl⟩
  · refine ⟨storePlace_ramOnly h, ?_⟩
    rw [storePlace_eq] at h
    rw [memWrite_frame h]
    exact (effectiveAddress_onlyPorts place u).sameMachinery
  · exact ⟨RamOnly.refl, rfl, rfl, rfl, rfl, rfl, rfl, rfl⟩
  · refine ⟨modifyPlace_ramOnly h, ?_⟩
    rw [modifyPlace_eq] at h
    obtain ⟨w, hw, ht⟩ := onNext_eq_next.mp h
    rw [← ht, memWrite_frame hw]
    exact (readPlace_onlyPorts place u).sameMachinery
  · refine ⟨jumpTo_mem h ▸ RamOnly.refl, ?_⟩
    rw [jumpTo_eq] at h
    cases h
    exact (effectiveAddress_onlyPorts place u).sameMachinery
  · refine ⟨callTo_ramOnly h, ?_⟩
    rw [callTo_eq, pushAddress_eq] at h
    cases h
    exact (effectiveAddress_onlyPorts place u).sameMachinery
  · unfold branchIf at h
    split at h <;> cases h <;> exact ⟨RamOnly.refl, rfl, rfl, rfl, rfl, rfl, rfl, rfl⟩
  · exact aloneRule_keeps hr h

/-- Every instruction writes at most cells of RAM. -/
theorem exec_ramOnly {i : Instr} {s t : State} (h : exec i s = .next t) : RamOnly s.mem t.mem :=
  (runRule_keeps (exec_eq_runRule i s ▸ h)).1

/-- Everything a row can do: the mnemonic's rule on the operand fetched, and a trace record. -/
theorem runRow_cases {addr : Word} {mn : Mnemonic} {md : Mode} {s t : State}
    (h : runRow addr mn md s = .next t) :
    ∃ v, runRule mn (fetchOperand md s).1 (fetchOperand md s).2 = .next v ∧
      t = addTrace ⟨addr, mn, md, resolvedAs mn (fetchOperand md s).1 (fetchOperand md s).2⟩ v := by
  obtain ⟨v, hv, ht⟩ := onNext_eq_next.mp h
  exact ⟨v, hv, ht.symm⟩

/-- Fetching the operand of a mode gives the one operand of that mode with those bytes: of no byte, of one, of two. -/
theorem fetchOperand_of_none {o : Operand} {s : State} (h : o.bytes = []) : fetchOperand o.mode s = (o, s) := by
  rcases o with _ | _ | _ | p | _ <;> first | rfl | cases h | (cases p <;> cases h)

theorem fetchOperand_of_one {o : Operand} {s : State} {d : Byte} (h : o.bytes = [d]) (hd : d = (fetch s).1) :
    fetchOperand o.mode s = (o, (fetch s).2) := by
  rcases o with _ | _ | _ | p | _
  case memory => cases p <;> cases h <;> cases hd <;> rfl
  all_goals cases h <;> cases hd <;> rfl

theorem fetchOperand_of_two {o : Operand} {s : State} {a : Word} (h : o.bytes = [loByte a, hiByte a])
    (ha : a = wordOf (fetch (fetch s).2).1 (fetch s).1) : fetchOperand o.mode s = (o, (fetch (fetch s).2).2) := by
  have key {b : Word} (hb : [loByte b, hiByte b] = [loByte a, hiByte a]) : b = a := by
    simp only [List.cons.injEq, and_true] at hb
    rw [← wordOf_hiByte_loByte b, hb.1, hb.2, wordOf_hiByte_loByte]
  rcases o with _ | _ | _ | p | _
  case memory =>
    cases p
    case abs | absx | absy | ind =>
      obtain rfl := key h
      subst ha
      rfl
    all_goals cases h
  all_goals cases h

/-- Running an instruction is running its mnemonic's rule, with the same trace record. -/
theorem runInstr_eq (addr : Word) (i : Instr) (s : State) :
    runInstr addr i s = onNext (runRule i.mnemonic i.operand s)
      (addTrace ⟨addr, i.mnemonic, i.mode, resolvedAs i.mnemonic i.operand s⟩) := by
  unfold runInstr
  rw [exec_eq_runRule]
  rfl

/-- A byte with no row faults, and nothing else does (30_encoding R93). -/
theorem fetchAndRun_no_row {s : State} (h : s.opcodeMap.row (fetch s).1 = none) :
    fetchAndRun s = .next (raiseFault (fetch s).1 s.pc (fetch s).2) := by
  have hm := (fetch_onlyFetch s).fields.2.2.2.2.2.2.2.2.2.2.2.2
  rw [← hm] at h
  unfold fetchAndRun fetchInstr
  simp only [form_of_no_row h]

/-- A byte with a row runs it, whatever mnemonic and mode (30_encoding R93). -/
theorem fetchAndRun_row {s : State} {mn : Mnemonic} {md : Mode} (h : s.opcodeMap.row (fetch s).1 = some (mn, md)) :
    fetchAndRun s = runRow s.pc mn md (fetch s).2 := by
  have hm := (fetch_onlyFetch s).fields.2.2.2.2.2.2.2.2.2.2.2.2
  rw [← hm] at h
  unfold fetchAndRun fetchInstr
  dsimp only
  cases hf : formOf mn md with
  | none => simp only [show (fetch s).2.opcodeMap.form (fetch s).1 = .error (.offTable mn md) by
      simp [OpcodeMap.form, h, hf]]
  | some f =>
    have hk := formOf_makes hf
    unfold runRow
    cases f with
    | f1 i =>
      obtain ⟨h1, h2, h3⟩ := hk
      simp only [form_ok.mpr ⟨mn, md, h, hf⟩, runInstr_eq, h1, h2]
      rw [← h2, show i.mode = i.operand.mode from rfl, fetchOperand_of_none h3]
    | f2 k =>
      obtain ⟨h1, h2, h3⟩ := hk (fetch (fetch s).2).1
      simp only [form_ok.mpr ⟨mn, md, h, hf⟩, runInstr_eq, h1, h2]
      rw [← h2, show (k _).mode = (k _).operand.mode from rfl, fetchOperand_of_one h3 rfl]
    | f3 k =>
      obtain ⟨h1, h2, h3⟩ := hk (wordOf (fetch (fetch (fetch s).2).2).1 (fetch (fetch s).2).1)
      simp only [form_ok.mpr ⟨mn, md, h, hf⟩, runInstr_eq, h1, h2]
      rw [← h2, show (k _).mode = (k _).operand.mode from rfl, fetchOperand_of_two h3 rfl]

/-! ## Steps -/

/-- Everything a `step` request can do (60_exceptions R242): nothing on a Faulted engine; an IRQ entry; the Fault, at a
byte without a row; or its row. -/
theorem engineStep_cases {s t : State} (h : engineStep s = .next t) :
    (s.faulted = true ∧ t = s) ∨
    (s.faulted = false ∧ irqTaken s = true ∧ interruptSequence irqVector false (s.setStarted true) = .next t) ∨
    (s.faulted = false ∧ irqTaken s = false ∧ ∃ opc u, fetch (s.setStarted true) = (opc, u) ∧
      ((s.opcodeMap.row opc = none ∧ t = raiseFault opc s.pc u) ∨
        ∃ mn md, s.opcodeMap.row opc = some (mn, md) ∧ runRow s.pc mn md u = .next t)) := by
  unfold engineStep at h
  dsimp only at h
  split_ifs at h with hf hi
  · cases h
    exact .inl ⟨hf, rfl⟩
  · exact .inr (.inl ⟨by simpa using hf, hi, h⟩)
  · refine .inr (.inr ⟨by simpa using hf, by simpa [irqTaken] using hi, _, _, rfl, ?_⟩)
    cases hr : s.opcodeMap.row (fetch (s.setStarted true)).1 with
    | none =>
      rw [fetchAndRun_no_row hr] at h
      exact .inl ⟨hr, (Host.Outcome.next.inj h).symm⟩
    | some row =>
      rw [fetchAndRun_row hr] at h
      exact .inr ⟨_, _, hr, h⟩

/-- A `step` request writes at most cells of RAM. -/
theorem engineStep_ramOnly {s t : State} (h : engineStep s = .next t) : RamOnly s.mem t.mem := by
  have hm := (fetch_onlyFetch (s.setStarted true)).fields.2.2.2.2.2.2.1
  rcases engineStep_cases h with ⟨_, rfl⟩ | ⟨_, _, h⟩ | ⟨_, _, opc, u, hf, ⟨_, rfl⟩ | ⟨mn, md, _, h⟩⟩
  · exact RamOnly.refl
  · exact interruptSequence_ramOnly (s := s.setStarted true) h
  all_goals
    rw [hf] at hm
  · exact hm ▸ RamOnly.refl
  · obtain ⟨v, hv, rfl⟩ := runRow_cases h
    have := (runRule_keeps hv).1
    rw [(fetchOperand_onlyFetch md u).fields.2.2.2.2.2.2.1, show u.mem = s.mem from hm] at this
    exact this

/-! ## The next request -/

/-- Taking the next request changes at most the agenda and the driver. -/
theorem nextRequest_frame {s u : State} {r : Request} (h : nextRequest s = (r, u)) :
    u = { s with agenda := u.agenda, driver := u.driver } := by
  unfold nextRequest at h
  split at h
  · cases h
    rfl
  · split at h <;> cases h <;> rfl

/-- With a request in the agenda, that request is next, whatever the driver does. -/
theorem nextRequest_agenda {s : State} {r : Request} {rest : List Request} (h : s.agenda = r :: rest) :
    nextRequest s = (r, s.setAgenda rest) := by simp [nextRequest, h]

/-- With an empty agenda, a driver that steps asks for a step. -/
theorem nextRequest_steps {s : State} (h : s.agenda = []) (hd : s.driver = .steps) : nextRequest s = (.step, s) := by
  simp [nextRequest, h, hd]

/-- With an empty agenda, the driver never makes a request that has no move. -/
theorem nextRequest_hasMove {s : State} (h : s.agenda = []) : (nextRequest s).1.hasMove s.started = true := by
  unfold nextRequest
  rw [h]
  dsimp only
  split
  · rfl
  · dsimp only
    split_ifs with hm
    · exact hm
    · rfl

/-- Everything a served request can do that completes, by the request (10_state R34 to R38, R43, R46). -/
theorem serve_cases {r : Request} {s t : State} (h : serve r s = .next t) :
    (r = .step ∧ engineStep s = .next t) ∨
    (r = .nmi ∧ s.faulted = true ∧ t = s) ∨
    (r = .nmi ∧ s.faulted = false ∧ interruptSequence nmiVector false s = .next t) ∨
    (∃ level, r = .irqLevel level ∧ t = s.setIrqPending level) ∨
    (∃ v, r = .reset v ∧ t = resetTo v s) ∨
    (∃ w, r = .pcLoad w ∧ s.started = false ∧ t = s.setPc w) ∨
    (∃ image, r = .romLoad image ∧ s.started = false ∧
      t = s.setMem (s.mem.ramPart ++ Memory.cellsFrom 0x8000 (image.take 0x8000))) := by
  cases r with
  | step => exact .inl ⟨rfl, h⟩
  | nmi =>
    unfold serve nmiEntry at h
    dsimp only at h
    split_ifs at h with hf
    · cases h
      exact .inr (.inl ⟨rfl, hf, rfl⟩)
    · exact .inr (.inr (.inl ⟨rfl, by simpa using hf, h⟩))
  | irqLevel level =>
    cases h
    exact .inr (.inr (.inr (.inl ⟨level, rfl, rfl⟩)))
  | reset v =>
    cases h
    exact .inr (.inr (.inr (.inr (.inl ⟨v, rfl, rfl⟩))))
  | pcLoad w =>
    unfold serve pcLoad at h
    dsimp only at h
    split_ifs at h with hs
    cases h
    exact .inr (.inr (.inr (.inr (.inr (.inl ⟨w, rfl, by simpa using hs, rfl⟩)))))
  | romLoad image =>
    unfold serve romLoad at h
    dsimp only at h
    split_ifs at h with hs
    cases h
    exact .inr (.inr (.inr (.inr (.inr (.inr ⟨image, rfl, by simpa using hs, rfl⟩)))))

/-- A step is the next request, served in the state whose schedule is advanced. -/
theorem step_eq (s : State) : step s = serve (nextRequest s).1 (nextRequest s).2 := rfl

/-! ## The other operations on the memory keep its form -/

/-- A memory made of bytes placed in RAM and the ROM part of a canonical memory is canonical. -/
theorem Memory.wf_resetRam {m : Memory} (hm : Memory.wf m = true) (ram : List Byte) :
    Memory.wf (Memory.cellsFrom 0 (ram.take 0x800) ++ m.romPart) = true := by
  refine Memory.wf_append (k := 0x8000) (Memory.wf_filter _ hm) ?_ (Memory.wf_cellsFrom _ _) ?_
  · simp [Memory.above]
  · intro c hc
    have := Memory.mem_cellsFrom hc
    simp at this
    omega

/-- A memory made of the RAM part of a canonical memory and an image placed in ROM is canonical. -/
theorem Memory.wf_loadRom {m : Memory} (hm : Memory.wf m = true) (image : List Byte) :
    Memory.wf (m.ramPart ++ Memory.cellsFrom 0x8000 (image.take 0x8000)) = true := by
  refine Memory.wf_append (k := 0x8000) (Memory.wf_cellsFrom _ _) (Memory.above_cellsFrom _ le_rfl)
    (Memory.wf_filter _ hm) ?_
  intro c hc
  have := (List.mem_filter.mp hc).2
  simp at this
  omega

/-- Placing bytes from outside keeps the canonical form. -/
theorem Memory.wf_placeBytes : ∀ (bytes : List Byte) (addr : Word) {m : Memory},
    Memory.wf m = true → Memory.wf (placeBytes bytes addr m) = true
  | [], _, _, hm => hm
  | b :: rest, addr, m, hm => by
    unfold placeBytes
    refine Memory.wf_placeBytes rest _ ?_
    split
    · exact Memory.wf_write _ b hm
    · exact hm

end Sys2Proof.Machine
end

