-- ==== Sys2Proof/Laws/PerInstr.lean ====
section
/-!
SUPPORT. Sys2Proof/Laws/PerInstr.lean: the statement made for each instruction as syntax, one lemma per constructor.
-/

namespace Sys2Proof.Laws.EncodedShape

/-- The instruction is well formed, its encoding has the length its mode gives it, and the default map's row for
its opcode byte names its mnemonic and its mode (30_encoding R91, R93, R110). -/
def Statement (i : Instr) : Prop :=
  i.wellFormed = true ∧ (encode i).length = i.length ∧ OpcodeMap.standard.row i.opcode = some (i.mnemonic, i.mode)

theorem ldaImm (d : Byte) : Statement (.ldaImm d) := ⟨rfl, rfl, show OpcodeMap.standard.row 0xA9 = some (.lda, .imm) from rfl⟩
theorem ldaZp (d : Byte) : Statement (.ldaZp d) := ⟨rfl, rfl, show OpcodeMap.standard.row 0xA5 = some (.lda, .zp) from rfl⟩
theorem ldaZpx (d : Byte) : Statement (.ldaZpx d) := ⟨rfl, rfl, show OpcodeMap.standard.row 0xB5 = some (.lda, .zpx) from rfl⟩
theorem ldaAbs (a : Word) : Statement (.ldaAbs a) := ⟨rfl, rfl, show OpcodeMap.standard.row 0xAD = some (.lda, .abs) from rfl⟩
theorem ldaAbsx (a : Word) : Statement (.ldaAbsx a) := ⟨rfl, rfl, show OpcodeMap.standard.row 0xBD = some (.lda, .absx) from rfl⟩
theorem ldaAbsy (a : Word) : Statement (.ldaAbsy a) := ⟨rfl, rfl, show OpcodeMap.standard.row 0xB9 = some (.lda, .absy) from rfl⟩
theorem ldaIndx (d : Byte) : Statement (.ldaIndx d) := ⟨rfl, rfl, show OpcodeMap.standard.row 0xA1 = some (.lda, .indx) from rfl⟩
theorem ldaIndy (d : Byte) : Statement (.ldaIndy d) := ⟨rfl, rfl, show OpcodeMap.standard.row 0xB1 = some (.lda, .indy) from rfl⟩
theorem ldxImm (d : Byte) : Statement (.ldxImm d) := ⟨rfl, rfl, show OpcodeMap.standard.row 0xA2 = some (.ldx, .imm) from rfl⟩
theorem ldxZp (d : Byte) : Statement (.ldxZp d) := ⟨rfl, rfl, show OpcodeMap.standard.row 0xA6 = some (.ldx, .zp) from rfl⟩
theorem ldxZpy (d : Byte) : Statement (.ldxZpy d) := ⟨rfl, rfl, show OpcodeMap.standard.row 0xB6 = some (.ldx, .zpy) from rfl⟩
theorem ldxAbs (a : Word) : Statement (.ldxAbs a) := ⟨rfl, rfl, show OpcodeMap.standard.row 0xAE = some (.ldx, .abs) from rfl⟩
theorem ldxAbsy (a : Word) : Statement (.ldxAbsy a) := ⟨rfl, rfl, show OpcodeMap.standard.row 0xBE = some (.ldx, .absy) from rfl⟩
theorem ldyImm (d : Byte) : Statement (.ldyImm d) := ⟨rfl, rfl, show OpcodeMap.standard.row 0xA0 = some (.ldy, .imm) from rfl⟩
theorem ldyZp (d : Byte) : Statement (.ldyZp d) := ⟨rfl, rfl, show OpcodeMap.standard.row 0xA4 = some (.ldy, .zp) from rfl⟩
theorem ldyZpx (d : Byte) : Statement (.ldyZpx d) := ⟨rfl, rfl, show OpcodeMap.standard.row 0xB4 = some (.ldy, .zpx) from rfl⟩
theorem ldyAbs (a : Word) : Statement (.ldyAbs a) := ⟨rfl, rfl, show OpcodeMap.standard.row 0xAC = some (.ldy, .abs) from rfl⟩
theorem ldyAbsx (a : Word) : Statement (.ldyAbsx a) := ⟨rfl, rfl, show OpcodeMap.standard.row 0xBC = some (.ldy, .absx) from rfl⟩
theorem staZp (d : Byte) : Statement (.staZp d) := ⟨rfl, rfl, show OpcodeMap.standard.row 0x85 = some (.sta, .zp) from rfl⟩
theorem staZpx (d : Byte) : Statement (.staZpx d) := ⟨rfl, rfl, show OpcodeMap.standard.row 0x95 = some (.sta, .zpx) from rfl⟩
theorem staAbs (a : Word) : Statement (.staAbs a) := ⟨rfl, rfl, show OpcodeMap.standard.row 0x8D = some (.sta, .abs) from rfl⟩
theorem staAbsx (a : Word) : Statement (.staAbsx a) := ⟨rfl, rfl, show OpcodeMap.standard.row 0x9D = some (.sta, .absx) from rfl⟩
theorem staAbsy (a : Word) : Statement (.staAbsy a) := ⟨rfl, rfl, show OpcodeMap.standard.row 0x99 = some (.sta, .absy) from rfl⟩
theorem staIndx (d : Byte) : Statement (.staIndx d) := ⟨rfl, rfl, show OpcodeMap.standard.row 0x81 = some (.sta, .indx) from rfl⟩
theorem staIndy (d : Byte) : Statement (.staIndy d) := ⟨rfl, rfl, show OpcodeMap.standard.row 0x91 = some (.sta, .indy) from rfl⟩
theorem stxZp (d : Byte) : Statement (.stxZp d) := ⟨rfl, rfl, show OpcodeMap.standard.row 0x86 = some (.stx, .zp) from rfl⟩
theorem stxZpy (d : Byte) : Statement (.stxZpy d) := ⟨rfl, rfl, show OpcodeMap.standard.row 0x96 = some (.stx, .zpy) from rfl⟩
theorem stxAbs (a : Word) : Statement (.stxAbs a) := ⟨rfl, rfl, show OpcodeMap.standard.row 0x8E = some (.stx, .abs) from rfl⟩
theorem styZp (d : Byte) : Statement (.styZp d) := ⟨rfl, rfl, show OpcodeMap.standard.row 0x84 = some (.sty, .zp) from rfl⟩
theorem styZpx (d : Byte) : Statement (.styZpx d) := ⟨rfl, rfl, show OpcodeMap.standard.row 0x94 = some (.sty, .zpx) from rfl⟩
theorem styAbs (a : Word) : Statement (.styAbs a) := ⟨rfl, rfl, show OpcodeMap.standard.row 0x8C = some (.sty, .abs) from rfl⟩
theorem adcImm (d : Byte) : Statement (.adcImm d) := ⟨rfl, rfl, show OpcodeMap.standard.row 0x69 = some (.adc, .imm) from rfl⟩
theorem adcZp (d : Byte) : Statement (.adcZp d) := ⟨rfl, rfl, show OpcodeMap.standard.row 0x65 = some (.adc, .zp) from rfl⟩
theorem adcZpx (d : Byte) : Statement (.adcZpx d) := ⟨rfl, rfl, show OpcodeMap.standard.row 0x75 = some (.adc, .zpx) from rfl⟩
theorem adcAbs (a : Word) : Statement (.adcAbs a) := ⟨rfl, rfl, show OpcodeMap.standard.row 0x6D = some (.adc, .abs) from rfl⟩
theorem adcAbsx (a : Word) : Statement (.adcAbsx a) := ⟨rfl, rfl, show OpcodeMap.standard.row 0x7D = some (.adc, .absx) from rfl⟩
theorem adcAbsy (a : Word) : Statement (.adcAbsy a) := ⟨rfl, rfl, show OpcodeMap.standard.row 0x79 = some (.adc, .absy) from rfl⟩
theorem adcIndx (d : Byte) : Statement (.adcIndx d) := ⟨rfl, rfl, show OpcodeMap.standard.row 0x61 = some (.adc, .indx) from rfl⟩
theorem adcIndy (d : Byte) : Statement (.adcIndy d) := ⟨rfl, rfl, show OpcodeMap.standard.row 0x71 = some (.adc, .indy) from rfl⟩
theorem sbcImm (d : Byte) : Statement (.sbcImm d) := ⟨rfl, rfl, show OpcodeMap.standard.row 0xE9 = some (.sbc, .imm) from rfl⟩
theorem sbcZp (d : Byte) : Statement (.sbcZp d) := ⟨rfl, rfl, show OpcodeMap.standard.row 0xE5 = some (.sbc, .zp) from rfl⟩
theorem sbcZpx (d : Byte) : Statement (.sbcZpx d) := ⟨rfl, rfl, show OpcodeMap.standard.row 0xF5 = some (.sbc, .zpx) from rfl⟩
theorem sbcAbs (a : Word) : Statement (.sbcAbs a) := ⟨rfl, rfl, show OpcodeMap.standard.row 0xED = some (.sbc, .abs) from rfl⟩
theorem sbcAbsx (a : Word) : Statement (.sbcAbsx a) := ⟨rfl, rfl, show OpcodeMap.standard.row 0xFD = some (.sbc, .absx) from rfl⟩
theorem sbcAbsy (a : Word) : Statement (.sbcAbsy a) := ⟨rfl, rfl, show OpcodeMap.standard.row 0xF9 = some (.sbc, .absy) from rfl⟩
theorem sbcIndx (d : Byte) : Statement (.sbcIndx d) := ⟨rfl, rfl, show OpcodeMap.standard.row 0xE1 = some (.sbc, .indx) from rfl⟩
theorem sbcIndy (d : Byte) : Statement (.sbcIndy d) := ⟨rfl, rfl, show OpcodeMap.standard.row 0xF1 = some (.sbc, .indy) from rfl⟩
theorem andImm (d : Byte) : Statement (.andImm d) := ⟨rfl, rfl, show OpcodeMap.standard.row 0x29 = some (.and, .imm) from rfl⟩
theorem andZp (d : Byte) : Statement (.andZp d) := ⟨rfl, rfl, show OpcodeMap.standard.row 0x25 = some (.and, .zp) from rfl⟩
theorem andZpx (d : Byte) : Statement (.andZpx d) := ⟨rfl, rfl, show OpcodeMap.standard.row 0x35 = some (.and, .zpx) from rfl⟩
theorem andAbs (a : Word) : Statement (.andAbs a) := ⟨rfl, rfl, show OpcodeMap.standard.row 0x2D = some (.and, .abs) from rfl⟩
theorem andAbsx (a : Word) : Statement (.andAbsx a) := ⟨rfl, rfl, show OpcodeMap.standard.row 0x3D = some (.and, .absx) from rfl⟩
theorem andAbsy (a : Word) : Statement (.andAbsy a) := ⟨rfl, rfl, show OpcodeMap.standard.row 0x39 = some (.and, .absy) from rfl⟩
theorem andIndx (d : Byte) : Statement (.andIndx d) := ⟨rfl, rfl, show OpcodeMap.standard.row 0x21 = some (.and, .indx) from rfl⟩
theorem andIndy (d : Byte) : Statement (.andIndy d) := ⟨rfl, rfl, show OpcodeMap.standard.row 0x31 = some (.and, .indy) from rfl⟩
theorem oraImm (d : Byte) : Statement (.oraImm d) := ⟨rfl, rfl, show OpcodeMap.standard.row 0x09 = some (.ora, .imm) from rfl⟩
theorem oraZp (d : Byte) : Statement (.oraZp d) := ⟨rfl, rfl, show OpcodeMap.standard.row 0x05 = some (.ora, .zp) from rfl⟩
theorem oraZpx (d : Byte) : Statement (.oraZpx d) := ⟨rfl, rfl, show OpcodeMap.standard.row 0x15 = some (.ora, .zpx) from rfl⟩
theorem oraAbs (a : Word) : Statement (.oraAbs a) := ⟨rfl, rfl, show OpcodeMap.standard.row 0x0D = some (.ora, .abs) from rfl⟩
theorem oraAbsx (a : Word) : Statement (.oraAbsx a) := ⟨rfl, rfl, show OpcodeMap.standard.row 0x1D = some (.ora, .absx) from rfl⟩
theorem oraAbsy (a : Word) : Statement (.oraAbsy a) := ⟨rfl, rfl, show OpcodeMap.standard.row 0x19 = some (.ora, .absy) from rfl⟩
theorem oraIndx (d : Byte) : Statement (.oraIndx d) := ⟨rfl, rfl, show OpcodeMap.standard.row 0x01 = some (.ora, .indx) from rfl⟩
theorem oraIndy (d : Byte) : Statement (.oraIndy d) := ⟨rfl, rfl, show OpcodeMap.standard.row 0x11 = some (.ora, .indy) from rfl⟩
theorem eorImm (d : Byte) : Statement (.eorImm d) := ⟨rfl, rfl, show OpcodeMap.standard.row 0x49 = some (.eor, .imm) from rfl⟩
theorem eorZp (d : Byte) : Statement (.eorZp d) := ⟨rfl, rfl, show OpcodeMap.standard.row 0x45 = some (.eor, .zp) from rfl⟩
theorem eorZpx (d : Byte) : Statement (.eorZpx d) := ⟨rfl, rfl, show OpcodeMap.standard.row 0x55 = some (.eor, .zpx) from rfl⟩
theorem eorAbs (a : Word) : Statement (.eorAbs a) := ⟨rfl, rfl, show OpcodeMap.standard.row 0x4D = some (.eor, .abs) from rfl⟩
theorem eorAbsx (a : Word) : Statement (.eorAbsx a) := ⟨rfl, rfl, show OpcodeMap.standard.row 0x5D = some (.eor, .absx) from rfl⟩
theorem eorAbsy (a : Word) : Statement (.eorAbsy a) := ⟨rfl, rfl, show OpcodeMap.standard.row 0x59 = some (.eor, .absy) from rfl⟩
theorem eorIndx (d : Byte) : Statement (.eorIndx d) := ⟨rfl, rfl, show OpcodeMap.standard.row 0x41 = some (.eor, .indx) from rfl⟩
theorem eorIndy (d : Byte) : Statement (.eorIndy d) := ⟨rfl, rfl, show OpcodeMap.standard.row 0x51 = some (.eor, .indy) from rfl⟩
theorem bitZp (d : Byte) : Statement (.bitZp d) := ⟨rfl, rfl, show OpcodeMap.standard.row 0x24 = some (.bit, .zp) from rfl⟩
theorem bitAbs (a : Word) : Statement (.bitAbs a) := ⟨rfl, rfl, show OpcodeMap.standard.row 0x2C = some (.bit, .abs) from rfl⟩
theorem aslAcc : Statement .aslAcc := ⟨rfl, rfl, show OpcodeMap.standard.row 0x0A = some (.asl, .acc) from rfl⟩
theorem aslZp (d : Byte) : Statement (.aslZp d) := ⟨rfl, rfl, show OpcodeMap.standard.row 0x06 = some (.asl, .zp) from rfl⟩
theorem aslZpx (d : Byte) : Statement (.aslZpx d) := ⟨rfl, rfl, show OpcodeMap.standard.row 0x16 = some (.asl, .zpx) from rfl⟩
theorem aslAbs (a : Word) : Statement (.aslAbs a) := ⟨rfl, rfl, show OpcodeMap.standard.row 0x0E = some (.asl, .abs) from rfl⟩
theorem aslAbsx (a : Word) : Statement (.aslAbsx a) := ⟨rfl, rfl, show OpcodeMap.standard.row 0x1E = some (.asl, .absx) from rfl⟩
theorem lsrAcc : Statement .lsrAcc := ⟨rfl, rfl, show OpcodeMap.standard.row 0x4A = some (.lsr, .acc) from rfl⟩
theorem lsrZp (d : Byte) : Statement (.lsrZp d) := ⟨rfl, rfl, show OpcodeMap.standard.row 0x46 = some (.lsr, .zp) from rfl⟩
theorem lsrZpx (d : Byte) : Statement (.lsrZpx d) := ⟨rfl, rfl, show OpcodeMap.standard.row 0x56 = some (.lsr, .zpx) from rfl⟩
theorem lsrAbs (a : Word) : Statement (.lsrAbs a) := ⟨rfl, rfl, show OpcodeMap.standard.row 0x4E = some (.lsr, .abs) from rfl⟩
theorem lsrAbsx (a : Word) : Statement (.lsrAbsx a) := ⟨rfl, rfl, show OpcodeMap.standard.row 0x5E = some (.lsr, .absx) from rfl⟩
theorem rolAcc : Statement .rolAcc := ⟨rfl, rfl, show OpcodeMap.standard.row 0x2A = some (.rol, .acc) from rfl⟩
theorem rolZp (d : Byte) : Statement (.rolZp d) := ⟨rfl, rfl, show OpcodeMap.standard.row 0x26 = some (.rol, .zp) from rfl⟩
theorem rolZpx (d : Byte) : Statement (.rolZpx d) := ⟨rfl, rfl, show OpcodeMap.standard.row 0x36 = some (.rol, .zpx) from rfl⟩
theorem rolAbs (a : Word) : Statement (.rolAbs a) := ⟨rfl, rfl, show OpcodeMap.standard.row 0x2E = some (.rol, .abs) from rfl⟩
theorem rolAbsx (a : Word) : Statement (.rolAbsx a) := ⟨rfl, rfl, show OpcodeMap.standard.row 0x3E = some (.rol, .absx) from rfl⟩
theorem rorAcc : Statement .rorAcc := ⟨rfl, rfl, show OpcodeMap.standard.row 0x6A = some (.ror, .acc) from rfl⟩
theorem rorZp (d : Byte) : Statement (.rorZp d) := ⟨rfl, rfl, show OpcodeMap.standard.row 0x66 = some (.ror, .zp) from rfl⟩
theorem rorZpx (d : Byte) : Statement (.rorZpx d) := ⟨rfl, rfl, show OpcodeMap.standard.row 0x76 = some (.ror, .zpx) from rfl⟩
theorem rorAbs (a : Word) : Statement (.rorAbs a) := ⟨rfl, rfl, show OpcodeMap.standard.row 0x6E = some (.ror, .abs) from rfl⟩
theorem rorAbsx (a : Word) : Statement (.rorAbsx a) := ⟨rfl, rfl, show OpcodeMap.standard.row 0x7E = some (.ror, .absx) from rfl⟩
theorem cmpImm (d : Byte) : Statement (.cmpImm d) := ⟨rfl, rfl, show OpcodeMap.standard.row 0xC9 = some (.cmp, .imm) from rfl⟩
theorem cmpZp (d : Byte) : Statement (.cmpZp d) := ⟨rfl, rfl, show OpcodeMap.standard.row 0xC5 = some (.cmp, .zp) from rfl⟩
theorem cmpZpx (d : Byte) : Statement (.cmpZpx d) := ⟨rfl, rfl, show OpcodeMap.standard.row 0xD5 = some (.cmp, .zpx) from rfl⟩
theorem cmpAbs (a : Word) : Statement (.cmpAbs a) := ⟨rfl, rfl, show OpcodeMap.standard.row 0xCD = some (.cmp, .abs) from rfl⟩
theorem cmpAbsx (a : Word) : Statement (.cmpAbsx a) := ⟨rfl, rfl, show OpcodeMap.standard.row 0xDD = some (.cmp, .absx) from rfl⟩
theorem cmpAbsy (a : Word) : Statement (.cmpAbsy a) := ⟨rfl, rfl, show OpcodeMap.standard.row 0xD9 = some (.cmp, .absy) from rfl⟩
theorem cmpIndx (d : Byte) : Statement (.cmpIndx d) := ⟨rfl, rfl, show OpcodeMap.standard.row 0xC1 = some (.cmp, .indx) from rfl⟩
theorem cmpIndy (d : Byte) : Statement (.cmpIndy d) := ⟨rfl, rfl, show OpcodeMap.standard.row 0xD1 = some (.cmp, .indy) from rfl⟩
theorem cpxImm (d : Byte) : Statement (.cpxImm d) := ⟨rfl, rfl, show OpcodeMap.standard.row 0xE0 = some (.cpx, .imm) from rfl⟩
theorem cpxZp (d : Byte) : Statement (.cpxZp d) := ⟨rfl, rfl, show OpcodeMap.standard.row 0xE4 = some (.cpx, .zp) from rfl⟩
theorem cpxAbs (a : Word) : Statement (.cpxAbs a) := ⟨rfl, rfl, show OpcodeMap.standard.row 0xEC = some (.cpx, .abs) from rfl⟩
theorem cpyImm (d : Byte) : Statement (.cpyImm d) := ⟨rfl, rfl, show OpcodeMap.standard.row 0xC0 = some (.cpy, .imm) from rfl⟩
theorem cpyZp (d : Byte) : Statement (.cpyZp d) := ⟨rfl, rfl, show OpcodeMap.standard.row 0xC4 = some (.cpy, .zp) from rfl⟩
theorem cpyAbs (a : Word) : Statement (.cpyAbs a) := ⟨rfl, rfl, show OpcodeMap.standard.row 0xCC = some (.cpy, .abs) from rfl⟩
theorem incZp (d : Byte) : Statement (.incZp d) := ⟨rfl, rfl, show OpcodeMap.standard.row 0xE6 = some (.inc, .zp) from rfl⟩
theorem incZpx (d : Byte) : Statement (.incZpx d) := ⟨rfl, rfl, show OpcodeMap.standard.row 0xF6 = some (.inc, .zpx) from rfl⟩
theorem incAbs (a : Word) : Statement (.incAbs a) := ⟨rfl, rfl, show OpcodeMap.standard.row 0xEE = some (.inc, .abs) from rfl⟩
theorem incAbsx (a : Word) : Statement (.incAbsx a) := ⟨rfl, rfl, show OpcodeMap.standard.row 0xFE = some (.inc, .absx) from rfl⟩
theorem decZp (d : Byte) : Statement (.decZp d) := ⟨rfl, rfl, show OpcodeMap.standard.row 0xC6 = some (.dec, .zp) from rfl⟩
theorem decZpx (d : Byte) : Statement (.decZpx d) := ⟨rfl, rfl, show OpcodeMap.standard.row 0xD6 = some (.dec, .zpx) from rfl⟩
theorem decAbs (a : Word) : Statement (.decAbs a) := ⟨rfl, rfl, show OpcodeMap.standard.row 0xCE = some (.dec, .abs) from rfl⟩
theorem decAbsx (a : Word) : Statement (.decAbsx a) := ⟨rfl, rfl, show OpcodeMap.standard.row 0xDE = some (.dec, .absx) from rfl⟩
theorem inx : Statement .inx := ⟨rfl, rfl, show OpcodeMap.standard.row 0xE8 = some (.inx, .imp) from rfl⟩
theorem iny : Statement .iny := ⟨rfl, rfl, show OpcodeMap.standard.row 0xC8 = some (.iny, .imp) from rfl⟩
theorem dex : Statement .dex := ⟨rfl, rfl, show OpcodeMap.standard.row 0xCA = some (.dex, .imp) from rfl⟩
theorem dey : Statement .dey := ⟨rfl, rfl, show OpcodeMap.standard.row 0x88 = some (.dey, .imp) from rfl⟩
theorem tax : Statement .tax := ⟨rfl, rfl, show OpcodeMap.standard.row 0xAA = some (.tax, .imp) from rfl⟩
theorem txa : Statement .txa := ⟨rfl, rfl, show OpcodeMap.standard.row 0x8A = some (.txa, .imp) from rfl⟩
theorem tay : Statement .tay := ⟨rfl, rfl, show OpcodeMap.standard.row 0xA8 = some (.tay, .imp) from rfl⟩
theorem tya : Statement .tya := ⟨rfl, rfl, show OpcodeMap.standard.row 0x98 = some (.tya, .imp) from rfl⟩
theorem txs : Statement .txs := ⟨rfl, rfl, show OpcodeMap.standard.row 0x9A = some (.txs, .imp) from rfl⟩
theorem pha : Statement .pha := ⟨rfl, rfl, show OpcodeMap.standard.row 0x48 = some (.pha, .imp) from rfl⟩
theorem pla : Statement .pla := ⟨rfl, rfl, show OpcodeMap.standard.row 0x68 = some (.pla, .imp) from rfl⟩
theorem php : Statement .php := ⟨rfl, rfl, show OpcodeMap.standard.row 0x08 = some (.php, .imp) from rfl⟩
theorem plp : Statement .plp := ⟨rfl, rfl, show OpcodeMap.standard.row 0x28 = some (.plp, .imp) from rfl⟩
theorem sec : Statement .sec := ⟨rfl, rfl, show OpcodeMap.standard.row 0x38 = some (.sec, .imp) from rfl⟩
theorem sei : Statement .sei := ⟨rfl, rfl, show OpcodeMap.standard.row 0x78 = some (.sei, .imp) from rfl⟩
theorem clc : Statement .clc := ⟨rfl, rfl, show OpcodeMap.standard.row 0x18 = some (.clc, .imp) from rfl⟩
theorem cld : Statement .cld := ⟨rfl, rfl, show OpcodeMap.standard.row 0xD8 = some (.cld, .imp) from rfl⟩
theorem beq (d : Byte) : Statement (.beq d) := ⟨rfl, rfl, show OpcodeMap.standard.row 0xF0 = some (.beq, .rel) from rfl⟩
theorem bne (d : Byte) : Statement (.bne d) := ⟨rfl, rfl, show OpcodeMap.standard.row 0xD0 = some (.bne, .rel) from rfl⟩
theorem bmi (d : Byte) : Statement (.bmi d) := ⟨rfl, rfl, show OpcodeMap.standard.row 0x30 = some (.bmi, .rel) from rfl⟩
theorem bpl (d : Byte) : Statement (.bpl d) := ⟨rfl, rfl, show OpcodeMap.standard.row 0x10 = some (.bpl, .rel) from rfl⟩
theorem bcs (d : Byte) : Statement (.bcs d) := ⟨rfl, rfl, show OpcodeMap.standard.row 0xB0 = some (.bcs, .rel) from rfl⟩
theorem bcc (d : Byte) : Statement (.bcc d) := ⟨rfl, rfl, show OpcodeMap.standard.row 0x90 = some (.bcc, .rel) from rfl⟩
theorem bvc (d : Byte) : Statement (.bvc d) := ⟨rfl, rfl, show OpcodeMap.standard.row 0x50 = some (.bvc, .rel) from rfl⟩
theorem jmpAbs (a : Word) : Statement (.jmpAbs a) := ⟨rfl, rfl, show OpcodeMap.standard.row 0x4C = some (.jmp, .abs) from rfl⟩
theorem jmpInd (a : Word) : Statement (.jmpInd a) := ⟨rfl, rfl, show OpcodeMap.standard.row 0x6C = some (.jmp, .ind) from rfl⟩
theorem jsr (a : Word) : Statement (.jsr a) := ⟨rfl, rfl, show OpcodeMap.standard.row 0x20 = some (.jsr, .abs) from rfl⟩
theorem rts : Statement .rts := ⟨rfl, rfl, show OpcodeMap.standard.row 0x60 = some (.rts, .imp) from rfl⟩
theorem rti : Statement .rti := ⟨rfl, rfl, show OpcodeMap.standard.row 0x40 = some (.rti, .imp) from rfl⟩
theorem brk : Statement .brk := ⟨rfl, rfl, show OpcodeMap.standard.row 0x00 = some (.brk, .imp) from rfl⟩

end Sys2Proof.Laws.EncodedShape
end

