-- ==== Sys2Proof/Tests/Slice0.lean ====
section
/-!
SUPPORT. Sys2Proof/Tests/Slice0.lean: small tests of one step each, their expected results from the spec's own vectors
and tables, and for every obligation with hypotheses a witness that meets them.
-/

namespace Sys2Proof.Tests

open Sys2Proof Sys2Proof.Machine

/-! ## Well-formedness: the check refuses a mnemonic with a mode it does not have (30_encoding R110) -/

theorem test_wf_refuses_ldx_zpx : Mnemonic.admits .ldx .zpx = false := by decide

theorem test_wf_refuses_sta_immediate : Mnemonic.admits .sta .imm = false := by decide

theorem test_wf_refuses_jsr_indirect : Mnemonic.admits .jsr .ind = false := by decide

theorem test_wf_accepts_ldx_zpy : Mnemonic.admits .ldx .zpy = true ∧ (Instr.ldxZpy 0x10).wellFormed = true := by decide

/-! ## Decoding: every row of 30_encoding R110, its byte and its operand bytes written out -/

theorem test_decode_load_store : ∀ w ∈ ([
      ([0xA9, 0xC3], .ldaImm 0xC3), ([0xA5, 0xC3], .ldaZp 0xC3), ([0xB5, 0xC3], .ldaZpx 0xC3),
      ([0xAD, 0x34, 0x12], .ldaAbs 0x1234), ([0xBD, 0x34, 0x12], .ldaAbsx 0x1234),
      ([0xB9, 0x34, 0x12], .ldaAbsy 0x1234), ([0xA1, 0xC3], .ldaIndx 0xC3), ([0xB1, 0xC3], .ldaIndy 0xC3),
      ([0xA2, 0xC3], .ldxImm 0xC3), ([0xA6, 0xC3], .ldxZp 0xC3), ([0xB6, 0xC3], .ldxZpy 0xC3),
      ([0xAE, 0x34, 0x12], .ldxAbs 0x1234), ([0xBE, 0x34, 0x12], .ldxAbsy 0x1234), ([0xA0, 0xC3], .ldyImm 0xC3),
      ([0xA4, 0xC3], .ldyZp 0xC3), ([0xB4, 0xC3], .ldyZpx 0xC3), ([0xAC, 0x34, 0x12], .ldyAbs 0x1234),
      ([0xBC, 0x34, 0x12], .ldyAbsx 0x1234), ([0x85, 0xC3], .staZp 0xC3), ([0x95, 0xC3], .staZpx 0xC3),
      ([0x8D, 0x34, 0x12], .staAbs 0x1234), ([0x9D, 0x34, 0x12], .staAbsx 0x1234),
      ([0x99, 0x34, 0x12], .staAbsy 0x1234), ([0x81, 0xC3], .staIndx 0xC3), ([0x91, 0xC3], .staIndy 0xC3),
      ([0x86, 0xC3], .stxZp 0xC3), ([0x96, 0xC3], .stxZpy 0xC3), ([0x8E, 0x34, 0x12], .stxAbs 0x1234),
      ([0x84, 0xC3], .styZp 0xC3), ([0x94, 0xC3], .styZpx 0xC3), ([0x8C, 0x34, 0x12], .styAbs 0x1234)] : List (List Byte × Instr)), decode w.1 = .ok (w.2, []) := by decide

theorem test_decode_arithmetic : ∀ w ∈ ([
      ([0x69, 0xC3], .adcImm 0xC3), ([0x65, 0xC3], .adcZp 0xC3), ([0x75, 0xC3], .adcZpx 0xC3),
      ([0x6D, 0x34, 0x12], .adcAbs 0x1234), ([0x7D, 0x34, 0x12], .adcAbsx 0x1234),
      ([0x79, 0x34, 0x12], .adcAbsy 0x1234), ([0x61, 0xC3], .adcIndx 0xC3), ([0x71, 0xC3], .adcIndy 0xC3),
      ([0xE9, 0xC3], .sbcImm 0xC3), ([0xE5, 0xC3], .sbcZp 0xC3), ([0xF5, 0xC3], .sbcZpx 0xC3),
      ([0xED, 0x34, 0x12], .sbcAbs 0x1234), ([0xFD, 0x34, 0x12], .sbcAbsx 0x1234),
      ([0xF9, 0x34, 0x12], .sbcAbsy 0x1234), ([0xE1, 0xC3], .sbcIndx 0xC3), ([0xF1, 0xC3], .sbcIndy 0xC3)] : List (List Byte × Instr)), decode w.1 = .ok (w.2, []) := by decide

theorem test_decode_logic : ∀ w ∈ ([
      ([0x29, 0xC3], .andImm 0xC3), ([0x25, 0xC3], .andZp 0xC3), ([0x35, 0xC3], .andZpx 0xC3),
      ([0x2D, 0x34, 0x12], .andAbs 0x1234), ([0x3D, 0x34, 0x12], .andAbsx 0x1234),
      ([0x39, 0x34, 0x12], .andAbsy 0x1234), ([0x21, 0xC3], .andIndx 0xC3), ([0x31, 0xC3], .andIndy 0xC3),
      ([0x09, 0xC3], .oraImm 0xC3), ([0x05, 0xC3], .oraZp 0xC3), ([0x15, 0xC3], .oraZpx 0xC3),
      ([0x0D, 0x34, 0x12], .oraAbs 0x1234), ([0x1D, 0x34, 0x12], .oraAbsx 0x1234),
      ([0x19, 0x34, 0x12], .oraAbsy 0x1234), ([0x01, 0xC3], .oraIndx 0xC3), ([0x11, 0xC3], .oraIndy 0xC3),
      ([0x49, 0xC3], .eorImm 0xC3), ([0x45, 0xC3], .eorZp 0xC3), ([0x55, 0xC3], .eorZpx 0xC3),
      ([0x4D, 0x34, 0x12], .eorAbs 0x1234), ([0x5D, 0x34, 0x12], .eorAbsx 0x1234),
      ([0x59, 0x34, 0x12], .eorAbsy 0x1234), ([0x41, 0xC3], .eorIndx 0xC3), ([0x51, 0xC3], .eorIndy 0xC3),
      ([0x24, 0xC3], .bitZp 0xC3), ([0x2C, 0x34, 0x12], .bitAbs 0x1234)] : List (List Byte × Instr)), decode w.1 = .ok (w.2, []) := by decide

theorem test_decode_shifts : ∀ w ∈ ([
      ([0x0A], .aslAcc), ([0x06, 0xC3], .aslZp 0xC3), ([0x16, 0xC3], .aslZpx 0xC3),
      ([0x0E, 0x34, 0x12], .aslAbs 0x1234), ([0x1E, 0x34, 0x12], .aslAbsx 0x1234), ([0x4A], .lsrAcc),
      ([0x46, 0xC3], .lsrZp 0xC3), ([0x56, 0xC3], .lsrZpx 0xC3), ([0x4E, 0x34, 0x12], .lsrAbs 0x1234),
      ([0x5E, 0x34, 0x12], .lsrAbsx 0x1234), ([0x2A], .rolAcc), ([0x26, 0xC3], .rolZp 0xC3),
      ([0x36, 0xC3], .rolZpx 0xC3), ([0x2E, 0x34, 0x12], .rolAbs 0x1234), ([0x3E, 0x34, 0x12], .rolAbsx 0x1234),
      ([0x6A], .rorAcc), ([0x66, 0xC3], .rorZp 0xC3), ([0x76, 0xC3], .rorZpx 0xC3),
      ([0x6E, 0x34, 0x12], .rorAbs 0x1234), ([0x7E, 0x34, 0x12], .rorAbsx 0x1234)] : List (List Byte × Instr)), decode w.1 = .ok (w.2, []) := by decide

theorem test_decode_compares : ∀ w ∈ ([
      ([0xC9, 0xC3], .cmpImm 0xC3), ([0xC5, 0xC3], .cmpZp 0xC3), ([0xD5, 0xC3], .cmpZpx 0xC3),
      ([0xCD, 0x34, 0x12], .cmpAbs 0x1234), ([0xDD, 0x34, 0x12], .cmpAbsx 0x1234),
      ([0xD9, 0x34, 0x12], .cmpAbsy 0x1234), ([0xC1, 0xC3], .cmpIndx 0xC3), ([0xD1, 0xC3], .cmpIndy 0xC3),
      ([0xE0, 0xC3], .cpxImm 0xC3), ([0xE4, 0xC3], .cpxZp 0xC3), ([0xEC, 0x34, 0x12], .cpxAbs 0x1234),
      ([0xC0, 0xC3], .cpyImm 0xC3), ([0xC4, 0xC3], .cpyZp 0xC3), ([0xCC, 0x34, 0x12], .cpyAbs 0x1234)] : List (List Byte × Instr)), decode w.1 = .ok (w.2, []) := by decide

theorem test_decode_incdec : ∀ w ∈ ([
      ([0xE6, 0xC3], .incZp 0xC3), ([0xF6, 0xC3], .incZpx 0xC3), ([0xEE, 0x34, 0x12], .incAbs 0x1234),
      ([0xFE, 0x34, 0x12], .incAbsx 0x1234), ([0xC6, 0xC3], .decZp 0xC3), ([0xD6, 0xC3], .decZpx 0xC3),
      ([0xCE, 0x34, 0x12], .decAbs 0x1234), ([0xDE, 0x34, 0x12], .decAbsx 0x1234), ([0xE8], .inx), ([0xC8], .iny),
      ([0xCA], .dex), ([0x88], .dey)] : List (List Byte × Instr)), decode w.1 = .ok (w.2, []) := by decide

theorem test_decode_transfers : ∀ w ∈ ([
      ([0xAA], .tax), ([0x8A], .txa), ([0xA8], .tay), ([0x98], .tya), ([0x9A], .txs)] : List (List Byte × Instr)), decode w.1 = .ok (w.2, []) := by decide

theorem test_decode_stack_and_flag_ops : ∀ w ∈ ([
      ([0x48], .pha), ([0x68], .pla), ([0x08], .php), ([0x28], .plp), ([0x38], .sec), ([0x78], .sei), ([0x18], .clc),
      ([0xD8], .cld)] : List (List Byte × Instr)), decode w.1 = .ok (w.2, []) := by decide

theorem test_decode_control : ∀ w ∈ ([
      ([0xF0, 0xC3], .beq 0xC3), ([0xD0, 0xC3], .bne 0xC3), ([0x30, 0xC3], .bmi 0xC3), ([0x10, 0xC3], .bpl 0xC3),
      ([0xB0, 0xC3], .bcs 0xC3), ([0x90, 0xC3], .bcc 0xC3), ([0x50, 0xC3], .bvc 0xC3),
      ([0x4C, 0x34, 0x12], .jmpAbs 0x1234), ([0x6C, 0x34, 0x12], .jmpInd 0x1234), ([0x20, 0x34, 0x12], .jsr 0x1234),
      ([0x60], .rts), ([0x40], .rti), ([0x00], .brk)] : List (List Byte × Instr)), decode w.1 = .ok (w.2, []) := by decide

/-- Bits by hand: LDA immediate is 101 010 01 with its operand in the next byte; STA absolute 100 011 01, low byte
first (spec/opcode_table.json numbers bit 0 as the first byte's least significant bit). -/
theorem test_decode_table_words :
    decodeTableWord 16 0b1111000010101001 = some (.ldaImm 0xF0) ∧
    decodeTableWord 8 0b10101001 = some (.ldaImm 0x00) ∧
    decodeTableWord 24 0b000100100011010010001101 = some (.staAbs 0x1234) ∧
    decodeTableWord 8 0b11101010 = none := by decide

/-- A byte with no row, a missing operand byte and no byte at all are refused by name. -/
theorem test_decode_refuses :
    decode [0xEA, 0x00] = .error (.noRow (.illegalOpcode 0xEA)) ∧ decode [0x8D, 0x34] = .error (.operandMissing 0x8D) ∧
    decode [] = .error .noOpcode := by decide

theorem test_encode_is_little_endian : encode (.jmpInd 0x12FF) = [0x6C, 0xFF, 0x12] := by decide

/-! ## One step from a small state (the conventions of 96_derived_vectors) -/

/-- The start state of the spec's vectors: SP is 0xFD, PC is 0x8000, all else is zero. -/
def launch : State := { State.reset with sp := 0xFD, pc := 0x8000 }

/-- `s` with single bytes placed at bus addresses, and the instruction bytes at its PC. -/
def load (bytes : List Byte) (cells : List (Word × Byte)) (s : State) : State :=
  { s with mem := placeBytes bytes s.pc (cells.foldl (fun m c => placeBytes [c.2] c.1 m) s.mem) }

/-- The state one step later, if there is one. -/
def after (bytes : List Byte) (cells : List (Word × Byte)) (s : State) : Option State :=
  match step (load bytes cells s) with
  | .next t => some t
  | .fault _ => none
  | .refused _ => none

/-- 96_derived_vectors LS1 (R130). -/
theorem test_lda_imm_zero :
    ((after [0xA9, 0x00] [] { launch with a := 0x77, p := 0x80 }).map fun t => (t.a, t.p, t.pc)) =
      some (0x00, 0x02, 0x8002) := by decide

/-- 96_derived_vectors LS4 (R130). -/
theorem test_lda_keeps_six_flags :
    ((after [0xA9, 0x11] [] { launch with p := 0xFF }).map fun t => (t.a, t.p, t.pc)) =
      some (0x11, 0x7D, 0x8002) := by decide

/-- 96_derived_vectors LS7 (R130, R73, R74). -/
theorem test_lda_unmapped_reads_zero :
    ((after [0xAD, 0x00, 0x50] [] { launch with a := 0x77, p := 0x80 }).map fun t => (t.a, t.p, t.pc, t.events)) =
      some (0x00, 0x02, 0x8003, [.softRead 0x5000]) := by decide

/-- 96_derived_vectors AM1 (R100). -/
theorem test_lda_zpx_wraps_in_page :
    ((after [0xB5, 0xF0] [(0x0010, 0x77), (0x0110, 0x99)] { launch with x := 0x20 }).map fun t => (t.a, t.pc)) =
      some (0x77, 0x8002) := by decide

/-- 96_derived_vectors AM4 (R103). -/
theorem test_lda_indx_pointer_not_masked :
    ((after [0xA1, 0x80] [(0x0010, 0x00), (0x0011, 0x04), (0x0110, 0x00), (0x0111, 0x03), (0x0300, 0xAA), (0x0400,
        0xBB)] { launch with x := 0x90 }).map fun t => (t.a, t.p, t.pc)) =
      some (0xAA, 0x80, 0x8002) := by decide

/-- 96_derived_vectors AM8 (R104). -/
theorem test_lda_indy_pointer_crosses_page :
    ((after [0xB1, 0xFF] [(0x0000, 0x04), (0x00FF, 0x00), (0x0100, 0x03), (0x0301, 0xAA), (0x0401, 0xBB)] { launch
        with y := 0x01 }).map fun t => (t.a, t.p, t.pc)) =
      some (0xAA, 0x80, 0x8002) := by decide

/-- 96_derived_vectors AM9 (R104). -/
theorem test_lda_indy_sum_wraps :
    ((after [0xB1, 0x10] [(0x0001, 0x66), (0x0010, 0xFF), (0x0011, 0xFF)] { launch with y := 0x02 }).map fun t =>
        (t.a, t.pc)) =
      some (0x66, 0x8002) := by decide

/-- 96_derived_vectors AM11 (R105). -/
theorem test_lda_absx_wraps :
    ((after [0xBD, 0xFF, 0xFF] [(0x0001, 0x66)] { launch with x := 0x02 }).map fun t => (t.a, t.pc)) =
      some (0x66, 0x8003) := by decide

/-- 96_derived_vectors AM12 (R106, R57). -/
theorem test_lda_absy_reads_rom :
    ((after [0xB9, 0xF0, 0x7F] [] { launch with y := 0x10 }).map fun t => (t.a, t.p, t.pc)) =
      some (0xB9, 0x80, 0x8003) := by decide

/-- 96_derived_vectors AM13 (R92, R25). -/
theorem test_lda_operand_fetch_wraps :
    ((after [0xA9] [(0x0000, 0x44)] { launch with pc := 0xFFFF }).map fun t => (t.a, t.pc)) =
      some (0x44, 0x0001) := by decide

/-- 96_derived_vectors LS8 (R131). -/
theorem test_ldx_negative :
    ((after [0xA2, 0xFF] [] { launch with p := 0x02 }).map fun t => (t.x, t.p, t.pc)) =
      some (0xFF, 0x80, 0x8002) := by decide

/-- 96_derived_vectors AM2 (R101). -/
theorem test_ldx_zpy_wraps_in_page :
    ((after [0xB6, 0xFF] [(0x0001, 0x42), (0x0101, 0x99)] { launch with y := 0x02 }).map fun t => (t.x, t.pc)) =
      some (0x42, 0x8002) := by decide

/-- 96_derived_vectors LS10 (R131, R106). -/
theorem test_ldx_absy :
    ((after [0xBE, 0x00, 0x02] [(0x0203, 0x7F)] { launch with y := 0x03 }).map fun t => (t.x, t.pc)) =
      some (0x7F, 0x8003) := by decide

/-- 96_derived_vectors LS11 (R132). -/
theorem test_ldy_zero :
    ((after [0xA0, 0x00] [] { launch with y := 0x05 }).map fun t => (t.y, t.p, t.pc)) =
      some (0x00, 0x02, 0x8002) := by decide

/-- 96_derived_vectors LS13 (R132, R100). -/
theorem test_ldy_zpx_wraps_in_page :
    ((after [0xB4, 0xF0] [(0x0010, 0x01), (0x0110, 0x99)] { launch with x := 0x20 }).map fun t => (t.y, t.pc)) =
      some (0x01, 0x8002) := by decide

/-- 96_derived_vectors LS14 (R133). -/
theorem test_sta_keeps_flags :
    ((after [0x85, 0x10] [] { launch with a := 0x5A, p := 0x82 }).map fun t => (t.p, t.pc, t.mem.read 0x010)) =
      some (0x82, 0x8002, 0x5A) := by decide

/-- 96_derived_vectors LS16 (R133, R105). -/
theorem test_sta_absx :
    ((after [0x9D, 0xFF, 0x01] [] { launch with a := 0x12, x := 0x01 }).map fun t => (t.pc, t.mem.read 0x200)) =
      some (0x8003, 0x12) := by decide

/-- 96_derived_vectors LS18 (R133, R104). -/
theorem test_sta_indy :
    ((after [0x91, 0x10] [(0x0010, 0xFF), (0x0011, 0x02)] { launch with a := 0x12, y := 0x02 }).map fun t => (t.pc,
        t.mem.read 0x301)) =
      some (0x8002, 0x12) := by decide

/-- 96_derived_vectors LS19 (R133, R103). -/
theorem test_sta_indx :
    ((after [0x81, 0x10] [(0x0014, 0x00), (0x0015, 0x03)] { launch with a := 0x34, x := 0x04 }).map fun t => (t.pc,
        t.mem.read 0x300)) =
      some (0x8002, 0x34) := by decide

/-- 96_derived_vectors LS21 (R134, R101). -/
theorem test_stx_zpy_wraps :
    ((after [0x96, 0x10] [] { launch with x := 0x33, y := 0xF8 }).map fun t => (t.pc, t.mem.read 0x008)) =
      some (0x8002, 0x33) := by decide

/-- 96_derived_vectors LS22 (R134). -/
theorem test_stx_abs :
    ((after [0x8E, 0x00, 0x07] [] { launch with x := 0x99 }).map fun t => (t.pc, t.mem.read 0x700)) =
      some (0x8003, 0x99) := by decide

/-- 96_derived_vectors LS24 (R135, R100). -/
theorem test_sty_zpx :
    ((after [0x94, 0x10] [] { launch with x := 0x01, y := 0x44 }).map fun t => (t.pc, t.mem.read 0x011)) =
      some (0x8002, 0x44) := by decide

/-- 96_derived_vectors LS25 (R135). -/
theorem test_sty_last_ram_byte :
    ((after [0x8C, 0xFF, 0x07] [] { launch with y := 0x80 }).map fun t => (t.pc, t.mem.read 0x7FF)) =
      some (0x8003, 0x80) := by decide

/-- 96_derived_vectors BU2 (R59, R61). -/
theorem test_sta_graphics_mirror :
    ((after [0x8D, 0xF8, 0x3F] [] { launch with a := 0x80 }).map fun t => (t.pc, t.events)) =
      some (0x8003, [.gfxWriteControl 0x80]) := by decide

/-- 96_derived_vectors BU8 (R63). -/
theorem test_sta_status_index_soft :
    ((after [0x8D, 0x02, 0x20] [] { launch with a := 0x80 }).map fun t => (t.pc, t.events)) =
      some (0x8003, [.softWrite 0x2002 0x80]) := by decide

/-- 96_derived_vectors BU21 (R65). -/
theorem test_sta_last_channel :
    ((after [0x8D, 0x13, 0x40] [] { launch with a := 0x08 }).map fun t => (t.pc, t.events)) =
      some (0x8003, [.sndChannelWrite 19 0x08]) := by decide

/-- 96_derived_vectors BU23 (R73). -/
theorem test_sta_unmapped_soft :
    ((after [0x8D, 0xFF, 0x7F] [] { launch with a := 0x08 }).map fun t => (t.pc, t.events)) =
      some (0x8003, [.softWrite 0x7FFF 0x08]) := by decide

/-- 96_derived_vectors BU24 (R58). -/
theorem test_sta_rom_dropped :
    ((after [0x8D, 0x00, 0x80] [] { launch with a := 0x80 }).map fun t => (t.pc, t.events)) =
      some (0x8003, [.softWrite 0x8000 0x80]) := by decide

/-- 96_derived_vectors BU25 (R56). -/
theorem test_sta_ram_mirror :
    ((after [0x8D, 0x05, 0x18] [] { launch with a := 0x5A }).map fun t => (t.pc, t.mem.read 0x005)) =
      some (0x8003, 0x5A) := by decide

/-- 96_derived_vectors AR4 (R141, R142). -/
theorem test_adc_overflow_set :
    ((after [0x69, 0x10] [] { launch with a := 0xD0 }).map fun t => (t.a, t.p, t.pc)) =
      some (0xE0, 0xC0, 0x8002) := by decide

/-- 96_derived_vectors AR9 (R141). -/
theorem test_adc_decimal_ignored :
    ((after [0x69, 0x01] [] { launch with a := 0x09, p := 0x08 }).map fun t => (t.a, t.p, t.pc)) =
      some (0x0A, 0x08, 0x8002) := by decide

/-- 96_derived_vectors AR11 (R141). -/
theorem test_adc_zp :
    ((after [0x65, 0x10] [(0x0010, 0x02)] { launch with a := 0x01 }).map fun t => (t.a, t.pc)) =
      some (0x03, 0x8002) := by decide

/-- 96_derived_vectors AR15 (R143, R142). -/
theorem test_sbc_borrow :
    ((after [0xE9, 0x20] [] { launch with a := 0x10, p := 0x01 }).map fun t => (t.a, t.p, t.pc)) =
      some (0xF0, 0xC0, 0x8002) := by decide

/-- 96_derived_vectors AR18 (R143, R142). -/
theorem test_sbc_overflow_set :
    ((after [0xE9, 0x10] [] { launch with a := 0x90, p := 0x01 }).map fun t => (t.a, t.p, t.pc)) =
      some (0x80, 0xC1, 0x8002) := by decide

/-- 96_derived_vectors AR22 (R143). -/
theorem test_sbc_decimal_ignored :
    ((after [0xE9, 0x01] [] { launch with a := 0x10, p := 0x09 }).map fun t => (t.a, t.p, t.pc)) =
      some (0x0F, 0x09, 0x8002) := by decide

/-- 96_derived_vectors LG2 (R150). -/
theorem test_and_imm :
    ((after [0x29, 0x82] [] { launch with a := 0x81 }).map fun t => (t.a, t.p, t.pc)) =
      some (0x80, 0x80, 0x8002) := by decide

/-- 96_derived_vectors LG4 (R150, R100). -/
theorem test_and_zpx :
    ((after [0x35, 0x10] [(0x0011, 0x3C)] { launch with a := 0xF0, x := 0x01 }).map fun t => (t.a, t.pc)) =
      some (0x30, 0x8002) := by decide

/-- 96_derived_vectors LG5 (R151). -/
theorem test_ora_imm :
    ((after [0x09, 0x80] [] { launch with a := 0x01, p := 0x02 }).map fun t => (t.a, t.p, t.pc)) =
      some (0x81, 0x80, 0x8002) := by decide

/-- 96_derived_vectors LG7 (R151). -/
theorem test_ora_abs :
    ((after [0x0D, 0x00, 0x03] [(0x0300, 0xF0)] { launch with a := 0x0F }).map fun t => (t.a, t.p, t.pc)) =
      some (0xFF, 0x80, 0x8003) := by decide

/-- 96_derived_vectors LG8 (R152). -/
theorem test_eor_zero :
    ((after [0x49, 0xFF] [] { launch with a := 0xFF, p := 0x80 }).map fun t => (t.a, t.p, t.pc)) =
      some (0x00, 0x02, 0x8002) := by decide

/-- 96_derived_vectors LG10 (R152, R104). -/
theorem test_eor_indy :
    ((after [0x51, 0x10] [(0x0010, 0x00), (0x0011, 0x03), (0x0301, 0x55)] { launch with a := 0xAA, y := 0x01 }).map
        fun t => (t.a, t.p, t.pc)) =
      some (0xFF, 0x80, 0x8002) := by decide

/-- 96_derived_vectors LG11 (R153). -/
theorem test_bit_disjoint :
    ((after [0x24, 0x10] [(0x0010, 0xC0)] { launch with a := 0x01 }).map fun t => (t.p, t.pc)) =
      some (0xC2, 0x8002) := by decide

/-- 96_derived_vectors LG13 (R153). -/
theorem test_bit_keeps_carry :
    ((after [0x24, 0x10] [(0x0010, 0x40)] { launch with a := 0x40, p := 0x83 }).map fun t => (t.p, t.pc)) =
      some (0x41, 0x8002) := by decide

/-- 96_derived_vectors SH3 (R162). -/
theorem test_asl_leaves_n :
    ((after [0x0A] [] { launch with a := 0x40, p := 0x03 }).map fun t => (t.a, t.p, t.pc)) =
      some (0x80, 0x00, 0x8001) := by decide

/-- 96_derived_vectors SH7 (R163, R105). -/
theorem test_asl_absx :
    ((after [0x1E, 0xFF, 0x02] [(0x0300, 0x01)] { launch with x := 0x01 }).map fun t => (t.pc, t.mem.read 0x300)) =
      some (0x8003, 0x02) := by decide

/-- 96_derived_vectors SH9 (R164). -/
theorem test_lsr_leaves_n :
    ((after [0x4A] [] { launch with a := 0x01, p := 0x80 }).map fun t => (t.a, t.p, t.pc)) =
      some (0x00, 0x83, 0x8001) := by decide

/-- 96_derived_vectors SH11 (R165). -/
theorem test_lsr_zpx :
    ((after [0x56, 0x10] [(0x0012, 0x01)] { launch with x := 0x02, p := 0x80 }).map fun t => (t.p, t.pc, t.mem.read
        0x012)) =
      some (0x83, 0x8002, 0x00) := by decide

/-- 96_derived_vectors SH14 (R166). -/
theorem test_rol_leaves_z :
    ((after [0x2A] [] { launch with a := 0x40, p := 0x03 }).map fun t => (t.a, t.p, t.pc)) =
      some (0x81, 0x82, 0x8001) := by decide

/-- 96_derived_vectors SH18 (R167). -/
theorem test_rol_abs :
    ((after [0x2E, 0x00, 0x03] [(0x0300, 0x40)] { launch with p := 0x03 }).map fun t => (t.p, t.pc, t.mem.read
        0x300)) =
      some (0x82, 0x8003, 0x81) := by decide

/-- 96_derived_vectors SH20 (R168). -/
theorem test_ror_carry_in :
    ((after [0x6A] [] { launch with a := 0x81, p := 0x01 }).map fun t => (t.a, t.p, t.pc)) =
      some (0xC0, 0x81, 0x8001) := by decide

/-- 96_derived_vectors SH24 (R169). -/
theorem test_ror_absx :
    ((after [0x7E, 0x00, 0x03] [(0x0301, 0x01)] { launch with x := 0x01, p := 0x01 }).map fun t => (t.p, t.pc,
        t.mem.read 0x301)) =
      some (0x81, 0x8003, 0x80) := by decide

/-- 96_derived_vectors CP4 (R171, R170). -/
theorem test_cmp_greater_clears_n :
    ((after [0xC9, 0x10] [] { launch with a := 0x90, p := 0x40 }).map fun t => (t.p, t.pc)) =
      some (0x41, 0x8002) := by decide

/-- 96_derived_vectors CP5 (R171, R170). -/
theorem test_cmp_less_sets_n :
    ((after [0xC9, 0xFF] [] { launch with a := 0x01, p := 0x40 }).map fun t => (t.p, t.pc)) =
      some (0xC0, 0x8002) := by decide

/-- 96_derived_vectors CP12 (R172). -/
theorem test_cpx_less :
    ((after [0xE4, 0x10] [(0x0010, 0x06)] { launch with x := 0x05, p := 0x03 }).map fun t => (t.p, t.pc)) =
      some (0x80, 0x8002) := by decide

/-- 96_derived_vectors CP13 (R172). -/
theorem test_cpx_greater :
    ((after [0xEC, 0x00, 0x03] [(0x0300, 0x7F)] { launch with x := 0x80 }).map fun t => (t.p, t.pc)) =
      some (0x01, 0x8003) := by decide

/-- 96_derived_vectors CP14 (R173). -/
theorem test_cpy_greater :
    ((after [0xC0, 0x00] [] { launch with y := 0xFF, p := 0x02 }).map fun t => (t.p, t.pc)) =
      some (0x01, 0x8002) := by decide

/-- 96_derived_vectors CP15 (R173). -/
theorem test_cpy_less :
    ((after [0xCC, 0x00, 0x03] [(0x0300, 0xFF)] { launch with y := 0xFE, p := 0x01 }).map fun t => (t.p, t.pc)) =
      some (0x80, 0x8003) := by decide

/-- 96_derived_vectors ID1 (R180). -/
theorem test_inc_wraps :
    ((after [0xE6, 0x10] [(0x0010, 0xFF)] { launch with p := 0x81 }).map fun t => (t.p, t.pc, t.mem.read 0x010)) =
      some (0x03, 0x8002, 0x00) := by decide

/-- 96_derived_vectors ID5 (R180, R58). -/
theorem test_inc_rom_dropped :
    ((after [0xEE, 0x00, 0x80] [] launch).map fun t => (t.p, t.pc, t.events)) =
      some (0x80, 0x8003, [.softWrite 0x8000 0xEF]) := by decide

/-- 96_derived_vectors ID6 (R181). -/
theorem test_dec_wraps :
    ((after [0xDE, 0x00, 0x03] [(0x0301, 0x00)] { launch with x := 0x01, p := 0x02 }).map fun t => (t.p, t.pc,
        t.mem.read 0x301)) =
      some (0x80, 0x8003, 0xFF) := by decide

/-- 96_derived_vectors ID8 (R181). -/
theorem test_dec_abs :
    ((after [0xCE, 0xFF, 0x07] [(0x07FF, 0x80)] launch).map fun t => (t.pc, t.mem.read 0x7FF)) =
      some (0x8003, 0x7F) := by decide

/-- 96_derived_vectors ID9 (R182). -/
theorem test_inx_wraps :
    ((after [0xE8] [] { launch with x := 0xFF, p := 0x80 }).map fun t => (t.x, t.p, t.pc)) =
      some (0x00, 0x02, 0x8001) := by decide

/-- 96_derived_vectors ID12 (R183). -/
theorem test_iny_wraps :
    ((after [0xC8] [] { launch with y := 0xFF }).map fun t => (t.y, t.p, t.pc)) =
      some (0x00, 0x02, 0x8001) := by decide

/-- 96_derived_vectors ID13 (R184). -/
theorem test_dex_wraps :
    ((after [0xCA] [] { launch with x := 0x00, p := 0x02 }).map fun t => (t.x, t.p, t.pc)) =
      some (0xFF, 0x80, 0x8001) := by decide

/-- 96_derived_vectors ID15 (R185). -/
theorem test_dey_sign :
    ((after [0x88] [] { launch with y := 0x80, p := 0x80 }).map fun t => (t.y, t.p, t.pc)) =
      some (0x7F, 0x00, 0x8001) := by decide

/-- 96_derived_vectors TR2 (R190). -/
theorem test_tax_zero :
    ((after [0xAA] [] { launch with a := 0x00, x := 0x01, p := 0x80 }).map fun t => (t.x, t.p, t.pc)) =
      some (0x00, 0x02, 0x8001) := by decide

/-- 96_derived_vectors TR4 (R191). -/
theorem test_txa_negative :
    ((after [0x8A] [] { launch with a := 0x05, x := 0xFE }).map fun t => (t.a, t.p, t.pc)) =
      some (0xFE, 0x80, 0x8001) := by decide

/-- 96_derived_vectors TR5 (R192). -/
theorem test_tay_clears_flags :
    ((after [0xA8] [] { launch with a := 0x7F, p := 0x82 }).map fun t => (t.y, t.p, t.pc)) =
      some (0x7F, 0x00, 0x8001) := by decide

/-- 96_derived_vectors TR6 (R193). -/
theorem test_tya_negative :
    ((after [0x98] [] { launch with y := 0xFF }).map fun t => (t.a, t.p, t.pc)) =
      some (0xFF, 0x80, 0x8001) := by decide

/-- 96_derived_vectors TR7 (R194). -/
theorem test_txs_no_flags :
    ((after [0x9A] [] { launch with x := 0x00, p := 0x80 }).map fun t => (t.sp, t.p, t.pc)) =
      some (0x00, 0x80, 0x8001) := by decide

/-- 96_derived_vectors ST2 (R200, R31). -/
theorem test_pha_wraps :
    ((after [0x48] [] { launch with a := 0x42, sp := 0x00 }).map fun t => (t.sp, t.pc, t.mem.read 0x100)) =
      some (0xFF, 0x8001, 0x42) := by decide

/-- 96_derived_vectors ST4 (R201, R32). -/
theorem test_pla_wraps :
    ((after [0x68] [(0x0100, 0x00)] { launch with a := 0x09, sp := 0xFF, p := 0x80 }).map fun t => (t.a, t.sp, t.p,
        t.pc)) =
      some (0x00, 0x00, 0x02, 0x8001) := by decide

/-- 96_derived_vectors ST5 (R202). -/
theorem test_php_forces_reserved :
    ((after [0x08] [] { launch with p := 0x01 }).map fun t => (t.sp, t.p, t.pc, t.mem.read 0x1FD)) =
      some (0xFC, 0x31, 0x8001, 0x31) := by decide

/-- 96_derived_vectors ST9 (R203). -/
theorem test_plp_replaces_all :
    ((after [0x28] [(0x01FE, 0x00)] { launch with p := 0xFF }).map fun t => (t.sp, t.p, t.pc)) =
      some (0xFE, 0x00, 0x8001) := by decide

/-- 96_derived_vectors FL1 (R210). -/
theorem test_sec_sets_one_bit :
    ((after [0x38] [] { launch with p := 0x00 }).map fun t => (t.p, t.pc)) =
      some (0x01, 0x8001) := by decide

/-- 96_derived_vectors FL3 (R211). -/
theorem test_sei_sets_one_bit :
    ((after [0x78] [] { launch with p := 0x00 }).map fun t => (t.p, t.pc)) =
      some (0x04, 0x8001) := by decide

/-- 96_derived_vectors FL5 (R212). -/
theorem test_clc_clears_one_bit :
    ((after [0x18] [] { launch with p := 0xFF }).map fun t => (t.p, t.pc)) =
      some (0xFE, 0x8001) := by decide

/-- 96_derived_vectors FL7 (R213). -/
theorem test_cld_clears_one_bit :
    ((after [0xD8] [] { launch with p := 0xFF }).map fun t => (t.p, t.pc)) =
      some (0xF7, 0x8001) := by decide

/-- 96_derived_vectors BR1 (R221, R220). -/
theorem test_beq_taken :
    ((after [0xF0, 0x05] [] { launch with p := 0x02 }).map fun t => (t.p, t.pc)) =
      some (0x02, 0x8007) := by decide

/-- 96_derived_vectors BR4 (R222, R108). -/
theorem test_bne_furthest_back :
    ((after [0xD0, 0x80] [] { launch with p := 0x00 }).map fun t => (t.p, t.pc)) =
      some (0x00, 0x7F82) := by decide

/-- 96_derived_vectors BR6 (R222). -/
theorem test_bne_wraps_up :
    ((after [0xD0, 0x04] [] { launch with p := 0x00, pc := 0xFFFD }).map fun t => (t.p, t.pc)) =
      some (0x00, 0x0003) := by decide

/-- 96_derived_vectors BR9 (R223). -/
theorem test_bmi_taken :
    ((after [0x30, 0x7F] [] { launch with p := 0x80 }).map fun t => (t.p, t.pc)) =
      some (0x80, 0x8081) := by decide

/-- 96_derived_vectors BR12 (R224). -/
theorem test_bpl_not_taken :
    ((after [0x10, 0x10] [] { launch with p := 0x80 }).map fun t => (t.p, t.pc)) =
      some (0x80, 0x8002) := by decide

/-- 96_derived_vectors BR13 (R225). -/
theorem test_bcs_taken :
    ((after [0xB0, 0x02] [] { launch with p := 0x01 }).map fun t => (t.p, t.pc)) =
      some (0x01, 0x8004) := by decide

/-- 96_derived_vectors BR16 (R226). -/
theorem test_bcc_not_taken :
    ((after [0x90, 0x02] [] { launch with p := 0x01 }).map fun t => (t.p, t.pc)) =
      some (0x01, 0x8002) := by decide

/-- 96_derived_vectors BR17 (R227). -/
theorem test_bvc_taken :
    ((after [0x50, 0xFC] [] { launch with p := 0x00 }).map fun t => (t.p, t.pc)) =
      some (0x00, 0x7FFE) := by decide

/-- 96_derived_vectors JP1 (R228). -/
theorem test_jmp_abs :
    ((after [0x4C, 0x34, 0x12] [] launch).map fun t => (t.pc)) =
      some (0x1234) := by decide

/-- 96_derived_vectors JP3 (R229, R107). -/
theorem test_jmp_ind_page_bug :
    ((after [0x6C, 0xFF, 0x12] [(0x0200, 0x56), (0x02FF, 0x78), (0x0300, 0x99)] launch).map fun t => (t.pc)) =
      some (0x5678) := by decide

/-- 96_derived_vectors JP4 (R229, R107). -/
theorem test_jmp_ind_at_the_top :
    ((after [0x6C, 0xFF, 0xFF] [(0xFF00, 0x12), (0xFFFF, 0x34)] launch).map fun t => (t.pc)) =
      some (0x1234) := by decide

/-- 96_derived_vectors JP6 (R230). -/
theorem test_jsr_stack_wraps :
    ((after [0x20, 0x34, 0x12] [] { launch with sp := 0x00 }).map fun t => (t.sp, t.pc, t.mem.read 0x100, t.mem.read
        0x1FF)) =
      some (0xFE, 0x1234, 0x02, 0x80) := by decide

/-- 96_derived_vectors JP9 (R232). -/
theorem test_rts_to_zero :
    ((after [0x60] [(0x01FE, 0xFF), (0x01FF, 0xFF)] launch).map fun t => (t.sp, t.pc)) =
      some (0xFF, 0x0000) := by decide

/-- 96_derived_vectors JP10 (R233). -/
theorem test_rti_restores :
    ((after [0x40] [(0x01FD, 0xC3), (0x01FE, 0x90), (0x01FF, 0x02)] { launch with sp := 0xFC, p := 0x04 }).map fun t
        => (t.sp, t.p, t.pc)) =
      some (0xFF, 0xC3, 0x9003) := by decide

/-- 96_derived_vectors JP13 (R235). -/
theorem test_brk_not_masked :
    ((after [0x00] [(0xFFFE, 0x00), (0xFFFF, 0x90)] { launch with sp := 0x01, p := 0xC4 }).map fun t => (t.sp, t.p,
        t.pc, t.mem.read 0x100, t.mem.read 0x1FF)) =
      some (0xFE, 0xF4, 0x9000, 0x80, 0xF4) := by decide

/-- 96_derived_vectors EX1 (R240, R113). -/
theorem test_illegal_faults :
    ((after [0x02] [] { launch with a := 0x55 }).map fun t => (t.pc, t.faulted, t.events)) =
      some (0x8001, true, [.faultRaised 0x02 0x8000]) := by decide

/-- 96_derived_vectors EX5 (R112). -/
theorem test_bvs_faults_without_operand :
    ((after [0x70, 0x02] [] { launch with p := 0x40 }).map fun t => (t.p, t.pc, t.faulted, t.events)) =
      some (0x40, 0x8001, true, [.faultRaised 0x70 0x8000]) := by decide

/-- 96_derived_vectors EX6 (R244, R245). -/
theorem test_irq_taken :
    ((after [0xA9, 0x11] [(0xFFFE, 0x00), (0xFFFF, 0x90)] { launch with p := 0x01, irqPending := true }).map fun t =>
        (t.sp, t.p, t.pc, t.mem.read 0x1FB, t.mem.read 0x1FC, t.mem.read 0x1FD)) =
      some (0xFA, 0x05, 0x9000, 0x01, 0x7F, 0xFF) := by decide

/-- 96_derived_vectors EX7 (R244). -/
theorem test_irq_masked :
    ((after [0xA9, 0x11] [(0xFFFE, 0x00), (0xFFFF, 0x90)] { launch with p := 0x05, irqPending := true }).map fun t =>
        (t.a, t.p, t.pc)) =
      some (0x11, 0x05, 0x8002) := by decide

/-- 96_derived_vectors EX8 (R245, R234). -/
theorem test_irq_at_zero :
    ((after [] [(0xFFFE, 0x00), (0xFFFF, 0x90)] { launch with p := 0x00, pc := 0x0000, irqPending := true }).map fun
        t => (t.sp, t.p, t.pc, t.mem.read 0x1FC, t.mem.read 0x1FD)) =
      some (0xFA, 0x04, 0x9000, 0xFF, 0xFF) := by decide

/-- 96_derived_vectors EX9 (R245). -/
theorem test_irq_pushes_reserved_as_is :
    ((after [0xA9, 0x11] [(0xFFFE, 0x00), (0xFFFF, 0x90)] { launch with p := 0x30, irqPending := true }).map fun t =>
        (t.sp, t.p, t.pc, t.mem.read 0x1FB, t.mem.read 0x1FC, t.mem.read 0x1FD)) =
      some (0xFA, 0x34, 0x9000, 0x30, 0x7F, 0xFF) := by decide

/-- 96_derived_vectors EX12 (R250). -/
theorem test_irq_before_illegal :
    ((after [0x02] [(0xFFFE, 0x00), (0xFFFF, 0x90)] { launch with irqPending := true }).map fun t => (t.sp, t.p,
        t.pc, t.mem.read 0x1FC, t.mem.read 0x1FD)) =
      some (0xFA, 0x04, 0x9000, 0x7F, 0xFF) := by decide

/-- 96_derived_vectors EX16 (R76, R235). -/
theorem test_unmapped_fetch_is_brk :
    ((after [] [(0xFFFE, 0x00), (0xFFFF, 0x90)] { launch with pc := 0x5000 }).map fun t => (t.p, t.pc, t.mem.read
        0x1FC, t.events)) =
      some (0x34, 0x9000, 0x50, [.softRead 0x5000]) := by decide

/-! ## Peripheral answers are free values: for whatever byte the port answers -/

/-- 96_derived_vectors LG14 (R153, R62): one status read, and N from the byte it answers. -/
theorem test_bit_reads_the_status_once (h : Config.freeByte 0 = 0x80) :
    (after [0x2C, 0x02, 0x20] [] { launch with a := 0xFF }).map (fun t => (t.p, t.events, t.draws)) =
      some (0x80, [.gfxReadStatus 0x80], 1) := by
  have e : (after [0x2C, 0x02, 0x20] [] { launch with a := 0xFF }).map (fun t => (t.p, t.events, t.draws)) =
      some (bitFlags (Config.freeByte 0) 0xFF 0x00, [.gfxReadStatus (Config.freeByte 0)], 1) := rfl
  rw [e, h]
  decide

/-- 96_derived_vectors BU10 (R62, R72). -/
theorem test_lda_takes_the_status_answer (h : Config.freeByte 0 = 0x80) :
    (after [0xAD, 0x02, 0x20] [] { launch with a := 0x11 }).map (fun t => (t.a, t.p, t.events)) =
      some (0x80, 0x80, [.gfxReadStatus 0x80]) := by
  have e : (after [0xAD, 0x02, 0x20] [] { launch with a := 0x11 }).map (fun t => (t.a, t.p, t.events)) =
      some (Config.freeByte 0, setZN (Config.freeByte 0) 0x00, [.gfxReadStatus (Config.freeByte 0)]) := rfl
  rw [e, h]
  decide

/-- 96_derived_vectors BU13 (R70). -/
theorem test_lda_takes_the_input_answer (h : Config.freeByte 0 = 0x41) :
    (after [0xAD, 0x16, 0x40] [] { launch with a := 0x11 }).map (fun t => (t.a, t.p, t.events)) =
      some (0x41, 0x00, [.inputRead 0x41]) := by
  have e : (after [0xAD, 0x16, 0x40] [] { launch with a := 0x11 }).map (fun t => (t.a, t.p, t.events)) =
      some (Config.freeByte 0, setZN (Config.freeByte 0) 0x00, [.inputRead (Config.freeByte 0)]) := rfl
  rw [e, h]
  decide

/-- 96_derived_vectors BU28 (R163, R161, R63): one read call, then one soft-failure write. -/
theorem test_asl_reads_and_writes_a_port_once (h : Config.freeByte 0 = 0x80) :
    (after [0x0E, 0x02, 0x20] [] launch).map (fun t => (t.p, t.events)) =
      some (0x03, [.softWrite 0x2002 0x00, .gfxReadStatus 0x80]) := by
  have e : (after [0x0E, 0x02, 0x20] [] launch).map (fun t => (t.p, t.events)) =
      some (aslFlags (Config.freeByte 0) 0x00,
        [.softWrite 0x2002 (aslResult (Config.freeByte 0)), .gfxReadStatus (Config.freeByte 0)]) := rfl
  rw [e, h]
  decide

/-! ## The OAM DMA, NMI, the boot ports and the trace -/

set_option maxRecDepth 4000 in
/-- 96_derived_vectors BU26 (R68): the page's bytes in order, the first two and the last written out. -/
theorem test_oam_dma_copies_the_page :
    (after [0x8D, 0x14, 0x40] [(0x0200, 0x01), (0x0201, 0x04), (0x02FF, 0xFE)] { launch with a := 0x02 }).map (fun t =>
      match t.events with
      | [.gfxOamDma bytes] => (bytes.length, bytes.getD 0 0, bytes.getD 1 0, bytes.getD 255 0)
      | _ => (0, 0, 0, 0)) = some (256, 0x01, 0x04, 0xFE) := by decide

/-- 20_memory R69: "the behaviour is unspecified and a model should refuse it". -/
theorem test_oam_dma_refuses_a_page_not_in_ram :
    (match step (load [0x8D, 0x14, 0x40] [] { launch with a := 0x20 }) with
      | .refused r => some r
      | _ => none) = some (.oamDmaSourceNotRam 0x20) := by decide

/-- 60_exceptions R248: NMI is taken with I set; P is pushed as it stands (the first half of 96_derived_vectors EX10). -/
theorem test_nmi_ignores_the_mask :
    (after [] [(0xFFFA, 0x00), (0xFFFB, 0xA0)] { launch with p := 0x85, agenda := [.nmi] }).map (fun t =>
      (t.pc, t.sp, t.p, t.mem.read 0x1FD, t.mem.read 0x1FC, t.mem.read 0x1FB)) =
      some (0xA000, 0xFA, 0x85, 0xFF, 0x7F, 0x85) := by decide

/-- 60_exceptions R249 (96_derived_vectors EX14): nothing on a Faulted engine. -/
theorem test_nmi_does_nothing_when_faulted :
    (after [] [] { launch with faulted := true, agenda := [.nmi] }).map (fun t => (t.pc, t.sp, t.events)) =
      some (0x8000, 0xFD, []) := by decide

/-- A map that gives 0xEA the pair `row`, and every other byte what the default map gives it. -/
def mapWith (row : Mnemonic × Mode) : OpcodeMap := OpcodeMap.standard.set 14 (OpcodeMap.standard[14].set 10 (some row))

/-- 00_scope R7, 30_encoding R93: the byte means what the OPCODE_MAP in force says; with LDA # at 0xEA, `EA 11` loads. -/
theorem test_another_map :
    (after [0xEA, 0x11] [] { launch with opcodeMap := mapWith (.lda, .imm) }).map (fun t => (t.a, t.pc, t.faulted)) =
      some (0x11, 0x8002, false) := by decide

/-- Log entry 19: under a map with LDX zero page,X at 0xEA, `EA F0` with X = 0x20 reads 0x0010 (30_encoding R100). -/
theorem test_row_outside_the_table_runs :
    (after [0xEA, 0xF0] [(0x0010, 0x99)] { launch with x := 0x20, opcodeMap := mapWith (.ldx, .zpx) }).map (fun t =>
      (t.x, t.p, t.pc, t.faulted)) = some (0x99, 0x80, 0x8002, false) := by decide

/-- 30_encoding R93, 45_incdec R182: under a map with INX zero page at 0xEA, `EA 10` fetches its operand and adds one
to X; a byte that has a row is no fault (90_conflicts C6). -/
theorem test_row_that_takes_no_operand_runs :
    (after [0xEA, 0x10] [] { launch with x := 0xFF, opcodeMap := mapWith (.inx, .zp) }).map (fun t =>
      (t.x, t.p, t.pc, t.faulted)) = some (0x00, 0x02, 0x8002, false) := by decide

/-- 30_encoding R97, 45_incdec R180: under a map with INC accumulator at 0xEA, `EA` adds one to A in place. -/
theorem test_inc_accumulator :
    (after [0xEA] [] { launch with a := 0x7F, opcodeMap := mapWith (.inc, .acc) }).map (fun t =>
      (t.a, t.p, t.pc, t.faulted)) = some (0x80, 0x80, 0x8001, false) := by decide

/-- Log entry 19: no mode but the immediate one delivers a literal byte as a value; LDA relative loads a free byte. -/
theorem test_lda_relative_loads_a_free_byte :
    (after [0xEA, 0x10] [] { launch with opcodeMap := mapWith (.lda, .rel) }).map (fun t => (t.a, t.pc, t.draws)) =
      some (Config.freeByte 0, 0x8002, 1) := rfl

/-- Log entry 7: the agenda comes first; a free driver then goes through its endless schedule. -/
theorem test_free_driver_follows_the_agenda :
    nextRequest { launch with agenda := [.nmi], driver := .free 3 } = (.nmi, { launch with driver := .free 3 }) ∧
    (nextRequest { launch with driver := .free 3 }).2.driver = .free 4 := ⟨rfl, rfl⟩

/-- 93_implementation_defined U18: a boot port has no move after the first step. -/
theorem test_boot_ports_have_no_move :
    (Request.pcLoad 0x9000).hasMove true = false ∧ (Request.romLoad []).hasMove true = false ∧
    (Request.pcLoad 0x9000).hasMove false = true ∧ Request.nmi.hasMove true = true := by decide

/-- 60_exceptions R243: a step of a Faulted engine does not even sample the IRQ. -/
theorem test_step_does_nothing_when_faulted :
    (after [0xA9, 0x11] [] { launch with faulted := true, irqPending := true }).map (fun t => (t.pc, t.a, t.sp, t.trace)) =
      some (0x8000, 0x00, 0xFD, []) := by decide

/-- 10_state R38 and R43: the boot ports have no move after the first step. -/
theorem test_boot_ports_refuse_after_a_step :
    (match serve (.pcLoad 0x9000) { launch with started := true } with | .refused r => some r | _ => none) =
      some .pcLoadAfterFirstStep ∧
    (match serve (.romLoad [0xEA]) { launch with started := true } with | .refused r => some r | _ => none) =
      some .romLoadAfterFirstStep := by decide

/-- 70_reset_and_hazards R281: ROM[0x7FFC] = 0x34 and ROM[0x7FFD] = 0x92 boot at 0x9234. -/
theorem test_boot_vector : bootVector (load [] [(0xFFFC, 0x34), (0xFFFD, 0x92)] launch) = 0x9234 := by decide

/-- 10_state R40: the trace records the address fetched from, the mnemonic, the mode and the resolved operand. -/
theorem test_trace_records_the_effective_address :
    (after [0x9D, 0xFF, 0x01] [] { launch with x := 0x01 }).map (fun t => t.trace) =
      some [⟨0x8000, .sta, .absx, .address 0x0200⟩] := by decide

/-- 10_state R39. -/
theorem test_snapshot : snapshot { launch with a := 1, x := 2, y := 3, p := 4 } = ⟨1, 2, 3, 0xFD, 0x8000, 4, false⟩ := by
  decide

/-- The state the host builds for the first instruction: INX at PC, run by the very next step. -/
theorem test_with_fetch_word :
    (match step (State.reset.withFetchWord 8 0xE8) with | .next t => some (t.x, t.pc) | _ => none) =
      some (0x01, 0x0001) := by decide

/-! ## Every flag computation at its corners (10_state R28, 41_arithmetic R142, 43_shifts R160) -/

theorem test_overflow_bit :
    overflowBit 0x50 0xA0 = true ∧ overflowBit 0x80 0x00 = false ∧ overflowBit 0x10 0x7F = false ∧
    overflowBit 0xFF 0x80 = false := by decide

theorem test_force_reserved : forceReserved 0x01 = 0x31 ∧ forceReserved 0xCF = 0xFF := by decide

/-! ## Witnesses: for every obligation with hypotheses, a state and operands that meet them all -/

/-- A state with something in every part of it, its stack pointer at the wrap. -/
def busy : State :=
  load [0x9D, 0xFF, 0x01] [(0x0010, 0x34), (0x0011, 0x02), (0x0100, 0x55), (0xFFFA, 0x00), (0xFFFB, 0xA0),
      (0xFFFE, 0x10), (0xFFFF, 0x90)]
    { launch with a := 0x81, x := 0x03, y := 0x04, sp := 0x00, p := 0xCB, draws := 7 }

theorem busy_sound : Sound busy := ⟨by decide, by decide⟩

theorem busy_ready : ReadyToRun busy busy := ⟨rfl, rfl, nofun⟩

/-- `busy` with a step and then an NMI in the agenda, and a free driver after them. -/
def scheduled : State := { busy with agenda := [.step, .nmi], driver := .free 5 }

theorem scheduled_ready : ReadyToRun scheduled { scheduled with agenda := [.nmi] } := ⟨rfl, rfl, nofun⟩

theorem witness_TheOpcodeMapIsTheTable : OpcodeMap.standard.row 0xFE = some (.inc, .absx) := by decide

theorem witness_DecodesTheSpecsWords :
    decode [0x9D, 0x00, 0x02] = .ok (.staAbsx 0x0200, []) ∧ decode [0x00] = .ok (.brk, []) := by decide

theorem witness_DecodedBytesAreTheEncoding : decode [0x9D, 0xFF, 0x01, 0xEA] = .ok (.staAbsx 0x01FF, [0xEA]) := by decide

/-- A one-byte, a two-byte and a three-byte instruction, and a fetched byte with no row. -/
theorem witness_LengthIsDecidedByTheOpcodeAlone :
    decode [0x0A, 0xEA] = .ok (.aslAcc, [0xEA]) ∧ decode [0xB6, 0x10] = .ok (.ldxZpy 0x10, []) ∧
    decode [0x6C, 0xFF, 0x12] = .ok (.jmpInd 0x12FF, []) ∧
    decodeWith (mapWith (.lda, .imm)) [0xEA, 0x11] = .ok (.ldaImm 0x11, []) ∧
    (load [0xEA] [] launch).opcodeMap.row (fetch (load [0xEA] [] launch)).1 = none := by decide

theorem witness_PushWritesThenDecrements : Sound busy := busy_sound

theorem witness_PopIncrementsThenReads : ({ launch with sp := 0xFF } : State).sp = 0xFF := rfl

theorem witness_PopsReturnThePushesReversed : Sound busy ∧ (List.replicate 256 (0x5A : Byte)).length ≤ 256 :=
  ⟨busy_sound, le_of_eq List.length_replicate⟩

theorem witness_ReturnAddressLayoutOnTheStack : Sound busy := busy_sound

/-- The last address of the region and its first mirror. -/
theorem witness_RamIsMirrored :
    (0x1FFF : Word).toNat < 0x2000 ∧ Sound busy ∧ (0x07FF : Word).toNat < 0x2000 ∧
    (0x07FF : Word).toNat % 0x800 = (0x1FFF : Word).toNat % 0x800 := ⟨by decide, busy_sound, by decide, by decide⟩

theorem witness_RomReadsTheLoadedImage :
    0x8000 ≤ (0x8000 : Word).toNat ∧ 0x8000 ≤ (0xFFFF : Word).toNat ∧
    (List.replicate 0x8000 (0xEA : Byte)).length = 0x8000 ∧ busy.started = false :=
  ⟨by decide, by decide, List.length_replicate, rfl⟩

/-- Both ends of the unmapped range. -/
theorem witness_UnmappedAccessesAreSoftFailures :
    (0x4018 ≤ (0x4018 : Word).toNat ∧ (0x4018 : Word).toNat ≤ 0x7FFF) ∧
    (0x4018 ≤ (0x7FFF : Word).toNat ∧ (0x7FFF : Word).toNat ≤ 0x7FFF) := by decide

/-- Each clause at the ends of its range. -/
theorem witness_UnlistedAccessesAreSoftFailures :
    ((0x2000 ≤ (0x2000 : Word).toNat ∧ (0x2000 : Word).toNat < 0x4000 ∧ (0x2000 : Word).toNat % 8 ∈ [0, 1, 3, 4, 5, 6]) ∧
      (0x2000 ≤ (0x3FFE : Word).toNat ∧ (0x3FFE : Word).toNat < 0x4000 ∧ (0x3FFE : Word).toNat % 8 ∈ [0, 1, 3, 4, 5, 6])) ∧
    ((0x4000 ≤ (0x4000 : Word).toNat ∧ ((0x4000 : Word).toNat ≤ 0x4014 ∨ (0x4000 : Word).toNat = 0x4017)) ∧
      (0x4000 ≤ (0x4014 : Word).toNat ∧ ((0x4014 : Word).toNat ≤ 0x4014 ∨ (0x4014 : Word).toNat = 0x4017)) ∧
      (0x4000 ≤ (0x4017 : Word).toNat ∧ ((0x4017 : Word).toNat ≤ 0x4014 ∨ (0x4017 : Word).toNat = 0x4017))) ∧
    (0x8000 ≤ (0x8000 : Word).toNat ∧
      0x8000 ≤ (0xFFFF : Word).toNat) ∧
    ((0x2000 ≤ (0x2002 : Word).toNat ∧ (0x2002 : Word).toNat < 0x4000 ∧ (0x2002 : Word).toNat % 8 ∈ [2, 4]) ∧
      (0x2000 ≤ (0x3FFC : Word).toNat ∧ (0x3FFC : Word).toNat < 0x4000 ∧ (0x3FFC : Word).toNat % 8 ∈ [2, 4])) := by decide

theorem witness_GraphicsAndChannelWritesAreOneCall :
    (0x2000 ≤ (0x2000 : Word).toNat ∧ (0x2000 : Word).toNat < 0x4000 ∧ (0x2000 : Word).toNat % 8 = 0) ∧
    (0x2000 ≤ (0x3FFF : Word).toNat ∧ (0x3FFF : Word).toNat < 0x4000 ∧ (0x3FFF : Word).toNat % 8 = 7) ∧
    ((7, Event.gfxWriteData 0x12) ∈ [(0, Event.gfxWriteControl 0x12), (1, .gfxWriteMask 0x12),
      (3, .gfxWriteOamAddr 0x12), (5, .gfxWriteScroll 0x12), (6, .gfxWriteAddr 0x12), (7, .gfxWriteData 0x12)]) ∧
    ((0x4000 ≤ (0x4000 : Word).toNat ∧ (0x4000 : Word).toNat ≤ 0x4013) ∧
      (0x4000 ≤ (0x4013 : Word).toNat ∧ (0x4013 : Word).toNat ≤ 0x4013)) := by decide

/-- Each side of each choice, at the ends of its range. -/
theorem witness_EveryReadAsksAPortAtMostOnce :
    (0x2000 ≤ (0x2002 : Word).toNat ∧ (0x2002 : Word).toNat < 0x4000 ∧ (0x2002 : Word).toNat % 8 = 2) ∧
    (0x2000 ≤ (0x3FFF : Word).toNat ∧ (0x3FFF : Word).toNat < 0x4000 ∧ (0x3FFF : Word).toNat % 8 = 7) ∧
    (0x4015 : Word).toNat ∈ [0x4015, 0x4016] ∧ ((0x1FFF : Word).toNat < 0x2000 ∨ 0x8000 ≤ (0x1FFF : Word).toNat) ∧
    ¬ ((0x7FFF : Word).toNat < 0x2000 ∨ 0x8000 ≤ (0x7FFF : Word).toNat) := by decide

theorem witness_OamDmaCopiesThePageInOrder : (0x00 : Byte).toNat ≤ 0x1F ∧ (0x1F : Byte).toNat ≤ 0x1F ∧ 255 < 256 := by
  decide

theorem witness_DirectModesAddressesAreExact :
    decode [0xA5, 0x10] = .ok (.ldaZp 0x10, []) ∧ (Instr.ldaZp 0x10).mode = .zp ∧
    decode [0xB5, 0xF0] = .ok (.ldaZpx 0xF0, []) ∧ (Instr.ldaZpx 0xF0).mode = .zpx ∧
    decode [0xB6, 0xFF] = .ok (.ldxZpy 0xFF, []) ∧ (Instr.ldxZpy 0xFF).mode = .zpy ∧
    decode [0x20, 0x34, 0x12] = .ok (.jsr 0x1234, []) ∧ (Instr.jsr 0x1234).mode = .abs ∧
    (match exec (.jsr 0x1234) State.reset with | .next _ => true | _ => false) = true := by decide

/-- The page's last byte, where the second read turns back, and an address below it. -/
theorem witness_IndirectJumpStaysInThePointersPage :
    (0x1200 : Word).toNat = (0x12FF : Word).toNat / 256 * 256 + ((0x12FF : Word).toNat % 256 + 1) % 256 ∧
    (0x12FE : Word).toNat % 256 ≠ 0xFF ∧ decode [0x6C, 0xFF, 0x12] = .ok (.jmpInd 0x12FF, []) ∧
    (Instr.jmpInd 0x12FF).mode = .ind := by decide

theorem witness_OperandValueIsTheLiteralOrOneRead :
    (Instr.bitAbs 0x2002).mnemonic ∈
      [Mnemonic.lda, .ldx, .ldy, .adc, .sbc, .and, .ora, .eor, .bit, .cmp, .cpx, .cpy] := by decide

theorem witness_LoadsFillTheirRegister :
    (Instr.ldaIndx 0xFF).mnemonic = .lda ∧ (Instr.ldxZpy 0xFF).mnemonic = .ldx ∧
    (Instr.ldyAbsx 0xFFFF).mnemonic = .ldy := by decide

/-- A store that completes and one that is refused. -/
theorem witness_StoresWriteOneByte :
    Sound busy ∧ (Instr.staIndy 0x10).mnemonic = .sta ∧ (Instr.stxZpy 0xFF).mnemonic = .stx ∧
    (Instr.styAbs 0x4014).mnemonic = .sty ∧ ¬ DmaRefused 0x4014 0x1F ∧ DmaRefused 0x4014 0x20 :=
  ⟨busy_sound, rfl, rfl, rfl, by unfold DmaRefused; decide, by unfold DmaRefused; decide⟩

theorem witness_AdcAddsWithCarry : (Instr.adcImm 0xFF).mnemonic = .adc ∧ (Instr.adcIndy 0xFF).mnemonic = .adc := by decide

theorem witness_SbcSubtractsWithBorrow : (Instr.sbcImm 0x00).mnemonic = .sbc ∧ (Instr.sbcAbsy 0xFFFF).mnemonic = .sbc := by
  decide

theorem witness_LogicCombinesBitwise :
    ((Instr.andImm 0x82).mnemonic, fun a b : Bool => a && b) ∈
      [(Mnemonic.and, fun a b : Bool => a && b), (.ora, fun a b => a || b), (.eor, Bool.xor)] ∧
    ((Instr.oraAbs 0x0300).mnemonic, fun a b : Bool => a || b) ∈
      [(Mnemonic.and, fun a b : Bool => a && b), (.ora, fun a b => a || b), (.eor, Bool.xor)] ∧
    ((Instr.eorIndy 0x10).mnemonic, Bool.xor) ∈
      [(Mnemonic.and, fun a b : Bool => a && b), (.ora, fun a b => a || b), (.eor, Bool.xor)] :=
  ⟨.head _, .tail _ (.head _), .tail _ (.tail _ (.head _))⟩

theorem witness_BitTestsWithoutWritingA : (Instr.bitZp 0x10).mnemonic = .bit ∧ (Instr.bitAbs 0x2002).mnemonic = .bit := by
  decide

theorem witness_ComparesSetCarryZeroNegative :
    ((Instr.cmpIndx 0x10).mnemonic, busy.a) ∈ [(Mnemonic.cmp, busy.a), (.cpx, busy.x), (.cpy, busy.y)] ∧
    ((Instr.cpxImm 0x03).mnemonic, busy.x) ∈ [(Mnemonic.cmp, busy.a), (.cpx, busy.x), (.cpy, busy.y)] ∧
    ((Instr.cpyAbs 0x0300).mnemonic, busy.y) ∈ [(Mnemonic.cmp, busy.a), (.cpx, busy.x), (.cpy, busy.y)] := by decide

theorem witness_MemoryShiftsReadAndWriteOnce :
    Sound busy ∧ ∀ i ∈ [(Instr.aslZp 0x10), .lsrZpx 0x10, .rolAbs 0x4014, .rorAbsx 0xFFFF], i.mode ≠ .acc ∧
      i.mnemonic ∈ [Mnemonic.asl, .lsr, .rol, .ror] := ⟨busy_sound, by decide⟩

theorem witness_IncAndDecModifyOneByte :
    Sound busy ∧ (Instr.incAbs 0x4014).mnemonic = .inc ∧ (Instr.decZpx 0xFF).mnemonic = .dec := ⟨busy_sound, rfl, rfl⟩

theorem witness_PhaAndPhpPushOneByte : Sound busy := busy_sound

theorem witness_FlagInstructionsWriteOneBit :
    ∀ w ∈ [(Instr.sec, Flag.c, true), (.sei, .i, true), (.clc, .c, false), (.cld, .d, false)],
      w ∈ [(Instr.sec, Flag.c, true), (.sei, .i, true), (.clc, .c, false), (.cld, .d, false)] := fun _ h => h

/-- The furthest displacements back and forward, on a flag set and a flag clear. -/
theorem witness_BranchesTestOneFlag :
    ((Instr.beq 0x80).mnemonic, Flag.z, true) ∈ [(Mnemonic.beq, Flag.z, true), (.bne, .z, false), (.bmi, .n, true),
      (.bpl, .n, false), (.bcs, .c, true), (.bcc, .c, false), (.bvc, .v, false)] ∧
    ((Instr.bvc 0x7F).mnemonic, Flag.v, false) ∈ [(Mnemonic.beq, Flag.z, true), (.bne, .z, false), (.bmi, .n, true),
      (.bpl, .n, false), (.bcs, .c, true), (.bcc, .c, false), (.bvc, .v, false)] := by decide

theorem witness_JsrPushesTheReturnAddressLessOne : Sound busy := busy_sound

theorem witness_RtsUndoesJsr : Sound busy := busy_sound

theorem witness_BrkTakesTheInterrupt : Sound busy := busy_sound

/-- BRK from `launch` with its stack pointer at the wrap: 0x7FFF and 0x31 pushed, the vector still zero. -/
theorem witness_RtiUndoesTheInterruptEntry :
    TakesInterrupt 0xFFFE true { launch with sp := 0x00, p := 0x01 }
      { launch with sp := 0xFD, p := 0x35, pc := 0x0000, mem := [(0x100, 0xFF), (0x1FE, 0x31), (0x1FF, 0x7F)] } := by
  refine ⟨rfl, by decide, by decide, by decide, by decide, fun k h1 h2 h3 => ?_⟩
  have h1 : k ≠ 0x100 := h1
  have h2 : k ≠ 0x1FF := h2
  have h3 : k ≠ 0x1FE := h3
  show Memory.read [(0x100, 0xFF), (0x1FE, 0x31), (0x1FF, 0x7F)] k = Memory.read [] k
  rw [Memory.read_cons, if_neg h1.symm, Memory.read_cons, if_neg h3.symm, Memory.read_cons, if_neg h2.symm]

/-- Under the default map with an empty agenda; under another map from an agenda; and at a row outside the table. -/
theorem witness_StepRunsTheDecodedInstruction :
    (ReadyToRun busy busy ∧
      decodeWith busy.opcodeMap [peek busy busy.pc, peek busy (busy.pc + 1), peek busy (busy.pc + 2)] =
        .ok (.staAbsx 0x01FF, []) ∧
      ∀ k < (Instr.staAbsx 0x01FF).length, (cellOf (busy.pc + BitVec.ofNat 16 k)).isSome = true) ∧
    (let s := load [0xEA, 0x11] [] { scheduled with opcodeMap := mapWith (.lda, .imm) }
     ReadyToRun s { s with agenda := [.nmi] } ∧
      decodeWith s.opcodeMap [peek s s.pc, peek s (s.pc + 1), peek s (s.pc + 2)] = .ok (.ldaImm 0x11, [0x01]) ∧
      ∀ k < (Instr.ldaImm 0x11).length, (cellOf (s.pc + BitVec.ofNat 16 k)).isSome = true) ∧
    let s := load [0xEA, 0xF0] [] { scheduled with opcodeMap := mapWith (.ldx, .zpx) }
    ReadyToRun s { s with agenda := [.nmi] } ∧ (cellOf s.pc).isSome = true ∧
      s.opcodeMap.row (peek s s.pc) = some (.ldx, .zpx) :=
  ⟨⟨busy_ready, by decide, by decide⟩, ⟨⟨rfl, rfl, nofun⟩, by decide, by decide⟩, ⟨rfl, rfl, nofun⟩, by decide,
    by decide⟩

/-- `busy` with its PC where nothing is mapped. -/
def unmappedAt (pc : Word) : State := { busy with pc := pc }

theorem unmappedAt_ready (pc : Word) : ReadyToRun (unmappedAt pc) (unmappedAt pc) := ⟨rfl, rfl, nofun⟩

/-- Both ends of the unmapped range. -/
theorem witness_UnmappedFetchRunsBrk :
    (Sound (unmappedAt 0x4018) ∧ ReadyToRun (unmappedAt 0x4018) (unmappedAt 0x4018) ∧
      (unmappedAt 0x4018).opcodeMap.row 0x00 = some (.brk, .imp) ∧ 0x4018 ≤ (unmappedAt 0x4018).pc.toNat ∧
      (unmappedAt 0x4018).pc.toNat ≤ 0x7FFF) ∧
    (Sound (unmappedAt 0x7FFF) ∧ ReadyToRun (unmappedAt 0x7FFF) (unmappedAt 0x7FFF) ∧
      (unmappedAt 0x7FFF).opcodeMap.row 0x00 = some (.brk, .imp) ∧ 0x4018 ≤ (unmappedAt 0x7FFF).pc.toNat ∧
      (unmappedAt 0x7FFF).pc.toNat ≤ 0x7FFF) :=
  ⟨⟨busy_sound, unmappedAt_ready _, by decide, by decide, by decide⟩,
    ⟨busy_sound, unmappedAt_ready _, by decide, by decide, by decide⟩⟩

/-- A byte without a row under the default map, and one with a row outside the table under another, which completes. -/
theorem witness_IllegalOpcodeSetsFault :
    (let s := load [0xEA] [] launch
     ReadyToRun s s ∧ (cellOf s.pc).isSome = true ∧ s.opcodeMap.row (peek s s.pc) = none ∧
      s.opcodeMap = OpcodeMap.standard ∧ peek s s.pc ∈ illegalOpcodes) ∧
    let s := load [0xEA] [] { scheduled with opcodeMap := mapWith (.inx, .zp) }
    ReadyToRun s { s with agenda := [.nmi] } ∧ (cellOf s.pc).isSome = true ∧
      s.opcodeMap.row (peek s s.pc) = some (.inx, .zp) ∧ ∃ t, step s = .next t :=
  ⟨⟨⟨rfl, rfl, nofun⟩, by decide, by decide, rfl, by decide⟩, ⟨rfl, rfl, nofun⟩, by decide, by decide, _, rfl⟩

theorem witness_FaultedIsTerminal :
    let s : State := { scheduled with faulted := true }
    s.faulted = true ∧ nextRequest s = (.step, { s with agenda := [.nmi] }) ∧
      step s = .next { s with agenda := [.nmi] } := ⟨rfl, rfl, rfl⟩

theorem witness_UnmaskedIrqIsTaken :
    let s : State := { scheduled with irqPending := true }
    Sound s ∧ nextRequest s = (.step, { s with agenda := [.nmi] }) ∧ s.faulted = false ∧ s.irqPending = true ∧
      getFlag .i s.p = false :=
  ⟨busy_sound, rfl, rfl, rfl, by decide⟩

theorem witness_NmiIsTakenUnmasked :
    (Sound busy ∧ busy.faulted = false) ∧ ({ busy with faulted := true } : State).faulted = true :=
  ⟨⟨busy_sound, rfl⟩, rfl⟩

theorem witness_BootLoadsRomAndPc :
    (List.replicate 0x8000 (0xEA : Byte)).length = 0x8000 ∧
    (⟨0, 0, 0, 0xFD, 0x34, 0, List.replicate 0x800 0xFF⟩ : ResetValues).ram.length = 0x800 :=
  ⟨List.length_replicate, List.length_replicate⟩

theorem witness_BootPortsCloseAtTheFirstStep :
    (busy.faulted = false ∧ ∃ t, engineStep busy = .next t) ∧
    let s : State := { busy with started := true }
    s.started = true ∧ s.agenda = [] ∧ ∃ t, step s = .next t := ⟨⟨rfl, _, rfl⟩, rfl, rfl, _, rfl⟩

theorem witness_EveryStepKeepsTheStateSound : Sound busy ∧ ∃ t, step busy = .next t := ⟨busy_sound, _, rfl⟩

theorem witness_OnlyTheLoaderWritesRom :
    (∃ t, step busy = .next t) ∧ (∀ image, (nextRequest busy).1 ≠ .romLoad image) ∧
    0x8000 ≤ (0x8000 : Word).toNat ∧ 0x8000 ≤ (0xFFFF : Word).toNat := ⟨⟨_, rfl⟩, nofun, by decide, by decide⟩

/-- TXS writes no flag; and PLP of a zero byte turns I off. -/
theorem witness_EachFlagHasItsWriters :
    (∃ t, exec .txs busy = .next t) ∧ (∀ f, Instr.txs.mnemonic ∉ flagWriters f) ∧
    Instr.txs.mnemonic ∉ reservedWriters ∧
    ∃ t, exec .plp { launch with p := 0x04 } = .next t ∧ getFlag .i (0x04 : Byte) = true ∧ getFlag .i t.p = false := by
  refine ⟨⟨_, rfl⟩, fun f => ?_, by decide, _, rfl, by decide, by decide⟩
  cases f <;> decide

/-- SEC is no writer of any of them. -/
theorem witness_EachRegisterHasItsWriters :
    (∃ t, exec .sec busy = .next t) ∧ writesA .sec = false ∧ Instr.sec.mnemonic ∉ xWriters ∧
    Instr.sec.mnemonic ∉ yWriters ∧ Instr.sec.mnemonic ∉ spWriters ∧ Instr.sec.mnemonic ∉ pcWriters ∧
    writesBus .sec = false := ⟨⟨_, rfl⟩, by decide, by decide, by decide, by decide, by decide, by decide⟩

/-- All four bits for ADC; all but the bit they write for SEI and CLD. -/
theorem witness_ReservedBitsAndMasksStayUnread :
    ((Instr.adcImm 0x09).mnemonic ∉ reservedWriters ∧ (0x3C : Byte) &&& 0x3C = 0x3C) ∧
    (Instr.sei.mnemonic ∉ reservedWriters ∧ (0x38 : Byte) &&& 0x3C = 0x38 ∧ (0x38 : Byte).getLsbD 2 = false) ∧
    (Instr.cld.mnemonic ∉ reservedWriters ∧ (0x34 : Byte) &&& 0x3C = 0x34 ∧ (0x34 : Byte).getLsbD 3 = false) := by decide

end Sys2Proof.Tests
end

section
/-!
PROOFS. The statements of 10_state: SetZN and Pop.
-/

namespace Sys2Proof.Machine

/-! ## Which bits of the status byte a flag write leaves -/

theorem SameBitsBut.refl (fs : List Flag) (p : Byte) : SameBitsBut fs p p := fun _ _ _ => rfl

/-- Writing a flag of `fs` leaves the bits outside `fs` as they are (10_state R29). -/
theorem SameBitsBut.putFlag {fs : List Flag} {p q : Byte} (h : SameBitsBut fs p q) {f : Flag} (hf : f ∈ fs)
    (b : Bool) : SameBitsBut fs p (putFlag f b q) := by
  intro k hk hfs
  have hne : k ≠ f.bit := (hfs f hf).symm
  rw [getLsbD_putFlag f hk, if_neg hne, h k hk hfs]

/-- `SetZN` is two flag writes, of Z and of N (10_state R28). -/
theorem sameBitsBut_setZN (v p : Byte) : SameBitsBut [.z, .n] p (setZN v p) :=
  ((SameBitsBut.refl _ p).putFlag (f := .z) (by decide) _).putFlag (f := .n) (by decide) _

theorem znFrom_setZN (v p : Byte) : ZNFrom v p (setZN v p) := by
  refine ⟨?zero, ?negative, sameBitsBut_setZN v p⟩
  case zero =>
    rw [getFlag_setZN]
    rfl
  case negative =>
    rw [getFlag_setZN, if_pos rfl]
    exact BitVec.msb_eq_getLsbD_last v

/-- Settles O6: the statement is `ZNFrom` of the byte `SetZN` leaves. -/
theorem setZNWritesZeroAndNegative : Obligations.SetZNWritesZeroAndNegative := znFrom_setZN

/-! ## The stack pointer at the end of its page -/

/-- At SP = 0xFF a pop wraps to the bottom of the stack page (10_state R32). -/
theorem pop_of_sp_eq_ff {s : State} (h : s.sp = 0xFF) : pop s = (s.mem.read 0x100, s.setSp 0x00) := by
  have hwrap : s.sp + 1 = 0x00 := by rw [h]; rfl
  rw [pop_eq, hwrap]
  rfl

/-- Settles O8: the byte of `SP + 1` is the pointer sought, and `pop_eq` says what a pop does with it. -/
theorem popIncrementsThenReads : Obligations.PopIncrementsThenReads :=
  fun s => ⟨s.sp + 1, BitVec.toNat_add s.sp 1, pop_eq s, pop_of_sp_eq_ff⟩

end Sys2Proof.Machine
end

section
/-!
PROOFS. The statements of 20_memory: RAM and its mirrors, ROM after the loader, OAM DMA, the unmapped range.
-/

namespace Sys2Proof.Machine

/-! ## RAM -/

/-- What every cell of a canonical memory reads after a write to one. -/
theorem Memory.read_write {m : Memory} (hm : Memory.wf m = true) (k j : Nat) (v : Byte) :
    Memory.read (Memory.write m k v) j = if j = k then v else Memory.read m j := by
  split_ifs with h
  · rw [h, Memory.read_write_same k v hm]
  · exact Memory.read_write_other h v m

/-- Settles O11: the accesses of an address and of its mirrors are accesses of one cell. -/
theorem ramIsMirrored : Obligations.RamIsMirrored := by
  intro addr s haddr
  refine ⟨memRead_ram haddr s, fun v ⟨hwf, _⟩ => ⟨_, memWrite_ram haddr v s, rfl, ?cells, ?mirrors⟩⟩
  case cells => exact fun k => Memory.read_write hwf _ k v
  case mirrors =>
    intro b hb hmirror
    rw [memRead_ram hb, hmirror, State.setMem_mem, Memory.read_write_same _ v hwf]

/-! ## ROM -/

/-- Behind the RAM part of a memory, a key that is no RAM index reads the cells joined to it. -/
theorem Memory.read_ramPart_append {k : Nat} (hk : 0x800 ≤ k) (m n : Memory) :
    Memory.read (m.ramPart ++ n) k = Memory.read n k := by
  have hnone : ¬ m.ramPart.any (fun cell => cell.1 == k) = true := by
    simp only [Memory.ramPart, List.any_eq_true, List.mem_filter, decide_eq_true_eq, beq_iff_eq]
    rintro ⟨cell, ⟨-, hram⟩, rfl⟩
    omega
  rw [Memory.read_append, if_neg hnone]

/-- Before the first step the loader completes and replaces the ROM cells (10_state R43). -/
theorem serve_romLoad {s : State} (h : s.started = false) (image : List Byte) :
    serve (.romLoad image) s =
      .next (s.setMem (s.mem.ramPart ++ Memory.cellsFrom 0x8000 (image.take 0x8000))) := by
  simp [serve, romLoad, h]

/-- The ROM byte at `n` of a memory into which a full image is loaded is the image's byte `n - 0x8000`. -/
theorem Memory.read_loadRom {image : List Byte} (hlen : image.length = 0x8000) {n : Nat} (hn : 0x8000 ≤ n)
    (m : Memory) :
    Memory.read (m.ramPart ++ Memory.cellsFrom 0x8000 (image.take 0x8000)) n = image.getD (n - 0x8000) 0 := by
  rw [Memory.read_ramPart_append (by omega), Memory.read_cellsFrom, if_pos hn, List.take_of_length_le hlen.le]
  rfl

/-- Settles O12: a ROM read is the cell of its address, and the loader put the image's byte there. -/
theorem romReadsTheLoadedImage : Obligations.RomReadsTheLoadedImage := by
  refine ⟨fun _ s haddr => memRead_rom haddr s, fun image s hlen hs => ⟨_, serve_romLoad hs image, ?_⟩⟩
  intro addr haddr
  rw [memRead_rom haddr, State.setMem_mem, Memory.read_loadRom hlen haddr]

/-! ## OAM DMA -/

/-- A write to 0x4014 is an OAM DMA from the page written (20_memory R68). -/
theorem memWrite_oamDma (v : Byte) (s : State) : memWrite 0x4014 v s = oamDma v s := rfl

/-- An OAM DMA from a page of RAM or of its mirrors is one recorded call (20_memory R68, R69). -/
theorem oamDma_ram {v : Byte} (h : v.toNat < 0x20) (s : State) :
    oamDma v s = .next (emit (.gfxOamDma (oamBytes v s)) s) := if_pos h

theorem length_oamBytes (page : Byte) (s : State) : (oamBytes page s).length = 256 := by
  rw [oamBytes, List.length_map, List.length_range]

/-- Byte `i` of an OAM DMA is byte `i` of its page (20_memory R68). -/
theorem getD_oamBytes {i : Nat} (hi : i < 256) (page : Byte) (s : State) :
    (oamBytes page s).getD i 0 = s.mem.read ((page.toNat * 256 + i) % 0x800) := by
  rw [List.getD_eq_getElem _ _ (by rwa [length_oamBytes])]
  simp only [oamBytes, List.getElem_map, List.getElem_range]

/-- Settles O18: the list recorded is `oamBytes`. -/
theorem oamDmaCopiesThePageInOrder : Obligations.OamDmaCopiesThePageInOrder := by
  intro v s hv
  refine ⟨oamBytes v s, ?call, length_oamBytes v s, fun i hi => getD_oamBytes hi v s⟩
  case call =>
    rw [memWrite_oamDma, oamDma_ram (by omega)]
    rfl

/-! ## The unmapped range -/

/-- A read where nothing is mapped is a soft failure (20_memory R73). -/
theorem memRead_unmapped {addr : Word} (h : 0x4018 ≤ addr.toNat) (h' : addr.toNat ≤ 0x7FFF) (s : State) :
    memRead addr s = softRead addr s := by
  unfold memRead
  dsimp only
  rw [if_neg (by omega), if_neg (by omega), if_neg (by omega), if_neg (by omega), if_pos (by omega)]

/-- A write past the last port, where nothing is mapped or in ROM, is a soft failure (20_memory R58, R73). -/
theorem memWrite_soft {addr : Word} (h : 0x4018 ≤ addr.toNat) (v : Byte) (s : State) :
    memWrite addr v s = .next (softWrite addr v s) := by
  unfold memWrite
  dsimp only
  rw [if_neg (by omega), if_neg (by omega), if_neg (by omega), if_neg (by omega), if_neg (by omega),
    if_neg (by omega), if_neg (by omega)]

/-- Settles O13: a soft failure changes the log alone. -/
theorem unmappedAccessesAreSoftFailures : Obligations.UnmappedAccessesAreSoftFailures := by
  intro addr s hlo hhi
  exact ⟨memRead_unmapped hlo hhi s, fun v => memWrite_soft hlo v s⟩

end Sys2Proof.Machine
end

section
/-!
PROOFS. The statements of 30_encoding: the length of an instruction, the direct modes and absolute indirect.
-/

namespace Sys2Proof

/-! ## The operand bytes of an instruction -/

/-- A mode takes as many operand bytes as its format has (30_encoding R90, R91). -/
theorem Operand.length_bytes (o : Operand) : o.bytes.length = o.mode.operandBytes := by
  cases o with
  | memory p => cases p <;> rfl
  | _ => rfl

/-- The operand of a mode whose operand bytes are the first of `bytes`, a missing one read as 0x00. -/
def Mode.operandOf (md : Mode) (bytes : List Byte) : Operand :=
  let d := bytes.getD 0 0
  let a := wordOf (bytes.getD 1 0) d
  match md with
  | .imp => .implied
  | .acc => .accumulator
  | .imm => .immediate d
  | .rel => .relative d
  | .zp => .memory (.zp d)
  | .zpx => .memory (.zpx d)
  | .zpy => .memory (.zpy d)
  | .indx => .memory (.indx d)
  | .indy => .memory (.indy d)
  | .abs => .memory (.abs a)
  | .absx => .memory (.absx a)
  | .absy => .memory (.absy a)
  | .ind => .memory (.ind a)

/-- An operand is its mode and its operand bytes (30_encoding R96 to R108). -/
theorem Operand.operandOf_mode_bytes (o : Operand) : o.mode.operandOf o.bytes = o := by
  cases o with
  | memory p =>
    cases p with
    | abs a => exact congrArg (fun w => memory (.abs w)) (wordOf_hiByte_loByte a)
    | absx a => exact congrArg (fun w => memory (.absx w)) (wordOf_hiByte_loByte a)
    | absy a => exact congrArg (fun w => memory (.absy w)) (wordOf_hiByte_loByte a)
    | ind a => exact congrArg (fun w => memory (.ind w)) (wordOf_hiByte_loByte a)
    | _ => rfl
  | _ => rfl

/-- The bytes decoded whole are the opcode byte and the operand bytes of the instruction. -/
theorem operand_bytes_of_decodeWith {m : OpcodeMap} {opc : Byte} {tail : List Byte} {i : Instr}
    (h : decodeWith m (opc :: tail) = .ok (i, [])) : i.operand.bytes = tail := by
  obtain ⟨opc', hbytes, -⟩ := decodeWith_row h
  rw [List.append_nil] at hbytes
  exact (List.cons.inj hbytes).2.symm

/-- The operand of an instruction decoded whole is the one its mode makes of the bytes after the opcode. -/
theorem operand_of_decodeWith {m : OpcodeMap} {opc : Byte} {tail : List Byte} {i : Instr}
    (h : decodeWith m (opc :: tail) = .ok (i, [])) : i.operand = i.mode.operandOf tail := by
  rw [← operand_bytes_of_decodeWith h]
  exact i.operand.operandOf_mode_bytes.symm

/-- Decoding uses as many bytes as the instruction is long (30_encoding R91). -/
theorem length_of_decodeWith {m : OpcodeMap} {bytes rest : List Byte} {i : Instr}
    (h : decodeWith m bytes = .ok (i, rest)) : bytes.length = rest.length + i.length := by
  obtain ⟨opc, rfl, -⟩ := decodeWith_row h
  have hoperand : i.operand.bytes.length = i.mode.operandBytes := i.operand.length_bytes
  rw [List.length_cons, List.length_append, hoperand, Instr.length]
  omega

/-- The three lengths of an instruction, by its mode (30_encoding R91). -/
theorem Instr.length_eq (i : Instr) :
    i.length =
      if i.mode ∈ [Mode.imp, .acc] then 1 else if i.mode ∈ [Mode.abs, .absx, .absy, .ind] then 3 else 2 := by
  rw [Instr.length]
  cases i.mode <;> rfl

/-! ## Which mnemonics have a mode -/

theorem Instr.wellFormed_eq_true (i : Instr) : i.wellFormed = true := by cases i <;> rfl

/-- The modes of an instruction's mnemonic include its own (30_encoding R110). -/
theorem Instr.admits_mode {i : Instr} {md : Mode} (h : i.mode = md) : i.mnemonic.admits md = true := by
  rw [← h]
  exact i.wellFormed_eq_true

/-- LDX and STX alone have the zero page,Y mode (30_encoding R101). -/
theorem Mnemonic.eq_ldx_or_stx_of_admits_zpy {mn : Mnemonic} (h : mn.admits .zpy = true) : mn = .ldx ∨ mn = .stx := by
  cases mn <;> revert h <;> decide

/-- JMP alone has the absolute indirect mode (30_encoding R107). -/
theorem Mnemonic.eq_jmp_of_admits_ind {mn : Mnemonic} (h : mn.admits .ind = true) : mn = .jmp := by
  cases mn <;> revert h <;> decide

/-! ## The second byte of a pointer -/

/-- Adding one to the low byte of a word alone stays in its page (30_encoding R107). -/
theorem toNat_wordOf_loByte_add_one (a : Word) :
    (wordOf (hiByte a) (loByte a + 1)).toNat = a.toNat / 256 * 256 + (a.toNat % 256 + 1) % 256 := by
  rw [toNat_wordOf, toNat_hiByte, BitVec.toNat_add, toNat_loByte]
  rfl

/-- Short of the page's last byte, that is the next address (30_encoding R107). -/
theorem wordOf_loByte_add_one {a : Word} (h : a.toNat % 256 ≠ 0xFF) : wordOf (hiByte a) (loByte a + 1) = a + 1 := by
  apply BitVec.eq_of_toNat_eq
  rw [toNat_wordOf_loByte_add_one]
  show _ = (a.toNat + 1) % 65536
  omega

end Sys2Proof

namespace Sys2Proof.Machine

/-! ## The length of an instruction -/

/-- An opcode byte without a row is all that is fetched (30_encoding R93). -/
theorem fetchInstr_of_no_row {s : State} (h : s.opcodeMap.row (fetch s).1 = none) :
    fetchInstr s = (.error (.illegalOpcode (fetch s).1), (fetch s).2) := by
  have hmap : (fetch s).2.opcodeMap = s.opcodeMap := by rw [fetch_onlyFetch s]
  simp only [fetchInstr, hmap, form_of_no_row h]

/-- Settles O5: decoding takes the row of the first byte, whose mode has a fixed number of operand bytes. -/
theorem lengthIsDecidedByTheOpcodeAlone : Obligations.LengthIsDecidedByTheOpcodeAlone := by
  refine ⟨fun m bytes i rest h => ?_, fun s => fetchInstr_of_no_row⟩
  obtain ⟨opc, hbytes, hrow⟩ := decodeWith_row h
  refine ⟨opc, _, hbytes, hrow, ?_⟩
  rw [length_of_decodeWith h, i.length_eq]

/-! ## The direct modes -/

/-- The address a call that completes jumps to is its effective address (49_control_transfer R230). -/
theorem callTo_pc {o : Place} {s t : State} (h : callTo o s = .next t) : t.pc = (effectiveAddress o s).1 := by
  rw [callTo_eq] at h
  obtain ⟨u, -, rfl⟩ := onNext_eq_next.mp h
  rfl

/-- Settles O19: an operand is what its mode makes of the bytes after the opcode, and the word of an address less than
65536 is that address. -/
theorem directModesAddressesAreExact : Obligations.DirectModesAddressesAreExact := by
  refine ⟨?zeroPage, ?lengths, ?zeroPageAddress, ?absolute, ?jumps⟩
  case zeroPage =>
    intro opc d i h
    have hop := operand_of_decodeWith h
    exact ⟨fun hmode => by rw [hop, hmode]; rfl, fun hmode => by rw [hop, hmode]; rfl,
      fun hmode => ⟨by rw [hop, hmode]; rfl, Mnemonic.eq_ldx_or_stx_of_admits_zpy (Instr.admits_mode hmode)⟩⟩
  case lengths =>
    intro bytes i h
    rw [length_of_decodeWith h, i.length_eq]
    refine ⟨fun hmode => ?_, fun hmode => by rw [hmode]; rfl⟩
    revert hmode
    cases i.mode <;> decide
  case zeroPageAddress =>
    intro d s
    have hd := d.isLt
    exact ⟨⟨_, rfl, Nat.mod_eq_of_lt (by omega)⟩, ⟨_, rfl, Nat.mod_eq_of_lt (by omega)⟩,
      ⟨_, rfl, Nat.mod_eq_of_lt (by omega)⟩⟩
  case absolute =>
    intro opc lo hi i h hmode
    refine ⟨wordOf hi lo, by rw [operand_of_decodeWith h, hmode]; rfl, ?_, fun _ => rfl⟩
    rw [toNat_wordOf, Nat.add_comm]
  case jumps =>
    exact fun ea s => ⟨jumpTo_eq (.abs ea) s, fun t h => callTo_pc (o := .abs ea) h⟩

/-! ## Absolute indirect -/

/-- Computing an indirect address is two bus reads, the second in the page of the first (30_encoding R107). -/
theorem effectiveAddress_ind (a : Word) (s : State) :
    effectiveAddress (.ind a) s =
      let low := memRead a s
      let high := memRead (wordOf (hiByte a) (loByte a + 1)) low.2
      (wordOf high.1 low.1, high.2) := rfl

/-- An instruction decoded whole in the absolute indirect mode is its opcode and its pointer, low byte first
(30_encoding R107). -/
theorem pointer_of_decodeWith {m : OpcodeMap} {bytes : List Byte} {i : Instr}
    (h : decodeWith m bytes = .ok (i, [])) (hmode : i.mode = .ind) :
    ∃ (opc : Byte) (a : Word), bytes = [opc, loByte a, hiByte a] ∧ i.operand = .memory (.ind a) := by
  obtain ⟨opc, rfl, -⟩ := decodeWith_row h
  obtain ⟨a, hop⟩ : ∃ a, i.operand = .memory (.ind a) := ⟨_, by rw [operand_of_decodeWith h, hmode]; rfl⟩
  exact ⟨opc, a, by rw [hop]; rfl, hop⟩

/-- Settles O21: the second read is at the word of the pointer's high byte and its low byte plus one. -/
theorem indirectJumpStaysInThePointersPage : Obligations.IndirectJumpStaysInThePointersPage := by
  refine ⟨?reads, ?next, ?decoded⟩
  case reads =>
    intro a b s hb
    obtain rfl : b = wordOf (hiByte a) (loByte a + 1) := by
      apply BitVec.eq_of_toNat_eq
      rw [hb, toNat_wordOf_loByte_add_one]
    exact effectiveAddress_ind a s
  case next =>
    exact fun a => ⟨_, toNat_wordOf_loByte_add_one a, wordOf_loByte_add_one⟩
  case decoded =>
    intro bytes i h hmode
    obtain ⟨opc, a, hbytes, hop⟩ := pointer_of_decodeWith h hmode
    refine ⟨Mnemonic.eq_jmp_of_admits_ind (Instr.admits_mode hmode), opc, _, _, a, hbytes, hop, ?_⟩
    rw [toNat_loByte, toNat_hiByte]
    omega

end Sys2Proof.Machine
end

section
/-!
PROOFS. The statements of 49_control_transfer: a return address on the stack.
-/

namespace Sys2Proof.Machine

/-! ## The stack pointer after two pushes -/

theorem toNat_sp_sub_one (sp : Byte) : (sp - 1).toNat = (sp.toNat + 255) % 256 := by
  rw [BitVec.toNat_sub, Nat.add_comm]
  rfl

theorem sp_sub_one_ne (sp : Byte) : (sp - 1).toNat ≠ sp.toNat := by
  have := sp.isLt
  rw [toNat_sp_sub_one]
  omega

/-- The first pop after two pushes takes the cell of the second push. -/
theorem sp_sub_two_add_one (sp : Byte) : sp - 2 + 1 = sp - 1 := by
  rw [BitVec.eq_sub_iff_add_eq, BitVec.add_assoc]
  exact BitVec.sub_add_cancel sp 2

/-! ## A return address on the stack -/

/-- A pop takes the byte of the cell at SP plus one (10_state R32). -/
theorem pop_of_sp_add_one {s : State} {sp : Byte} (h : s.sp + 1 = sp) :
    pop s = (s.mem.read (0x100 + sp.toNat), s.setSp sp) := h ▸ pop_eq s

/-- Popping a return address is two pops, high byte first (49_control_transfer R231, R232). -/
theorem popAddress_eq_pops (s : State) :
    popAddress s = (wordOf (pop s).1 (pop (pop s).2).1 + 1, (pop (pop s).2).2) := rfl

/-- The cells after a return address is pushed: the low byte where SP was, the high byte one below, wrapping in the
stack page (49_control_transfer R231). -/
theorem pushAddress_read {s t : State} (hs : Sound s) {r : Word} (h : pushAddress r s = .next t) (k : Nat) :
    t.mem.read k =
      if k = 0x100 + s.sp.toNat then loByte r
      else if k = 0x100 + (s.sp - 1).toNat then hiByte r else s.mem.read k := by
  obtain ⟨hwf, -⟩ := hs
  have hne := sp_sub_one_ne s.sp
  rw [pushAddress_eq] at h
  cases h
  rw [State.setSp_mem, State.setMem_mem, Memory.read_write (Memory.wf_write _ _ hwf), Memory.read_write hwf]
  by_cases hlow : k = 0x100 + s.sp.toNat
  · rw [if_neg (by omega), if_pos hlow, if_pos hlow]
  · rw [if_neg hlow, if_neg hlow]

/-- The two pops after a return address is pushed: its high byte, its low byte, and SP as before the pushes
(49_control_transfer R231). -/
theorem pops_of_pushAddress {s t : State} (hs : Sound s) {r : Word} (h : pushAddress r s = .next t) :
    pop t = (hiByte r, t.setSp (s.sp - 1)) ∧ pop (t.setSp (s.sp - 1)) = (loByte r, t.setSp s.sp) := by
  have hread := pushAddress_read hs h
  have hne := sp_sub_one_ne s.sp
  have hsp : t.sp = s.sp - 2 := by
    rw [pushAddress_eq] at h
    cases h
    rfl
  constructor
  · rw [pop_of_sp_add_one (hsp ▸ sp_sub_two_add_one s.sp), hread, if_neg (by omega), if_pos rfl]
  · rw [pop_of_sp_add_one (BitVec.sub_add_cancel s.sp 1), State.setSp_mem, hread, if_pos rfl]
    rfl

/-- Settles O10: the two cells hold the bytes of the word pushed, and the two pops take them in turn. -/
theorem returnAddressLayoutOnTheStack : Obligations.ReturnAddressLayoutOnTheStack := by
  intro r s hs
  have hpush := pushAddress_eq r s
  obtain ⟨hhi, hlo⟩ := pops_of_pushAddress hs hpush
  refine ⟨_, hpush, rfl, ?cells, ?high, ?low, ?word⟩
  case cells =>
    rw [← toNat_sp_sub_one]
    exact pushAddress_read hs hpush
  case high => rw [hhi]
  case low => rw [hhi, hlo]
  case word =>
    rw [popAddress_eq_pops, hhi, hlo, wordOf_hiByte_loByte]
    rfl

end Sys2Proof.Machine
end

section
/-!
PROOFS. The statements of 60_exceptions: the Faulted engine and the IRQ entry.
-/

namespace Sys2Proof.Machine

/-! ## The Faulted engine -/

/-- On a Faulted engine a `step` request does nothing (60_exceptions R243). -/
theorem engineStep_of_faulted {s : State} (h : s.faulted = true) : engineStep s = .next s := if_pos h

theorem nextRequest_faulted {s u : State} {r : Request} (h : nextRequest s = (r, u)) : u.faulted = s.faulted := by
  rw [nextRequest_frame h]

/-- When the next request is a step, the machine's step is that of the engine (60_exceptions R242). -/
theorem step_of_nextRequest_step {s u : State} (h : nextRequest s = (.step, u)) : step s = engineStep u := by
  rw [step_eq, h]
  rfl

/-- No request but reset takes the engine out of state Faulted (60_exceptions R243, R249). -/
theorem serve_keeps_faulted {r : Request} {s t : State} (hs : s.faulted = true) (h : serve r s = .next t) :
    t.faulted = true ∨ ∃ v, r = .reset v := by
  rcases serve_cases h with ⟨-, hstep⟩ | ⟨-, -, rfl⟩ | ⟨-, hrunning, -⟩ | ⟨_, -, rfl⟩ | ⟨v, rfl, -⟩ |
    ⟨_, -, -, rfl⟩ | ⟨_, -, -, rfl⟩
  · rw [engineStep_of_faulted hs] at hstep
    cases hstep
    exact .inl hs
  · exact .inl hs
  · rw [hs] at hrunning
    cases hrunning
  · exact .inl hs
  · exact .inr ⟨v, rfl⟩
  · exact .inl hs
  · exact .inl hs

/-- Settles O49: a step returns its state at the first test, and of the other requests only reset writes the latch. -/
theorem faultedIsTerminal : Obligations.FaultedIsTerminal := by
  refine ⟨fun s hs => ⟨engineStep_of_faulted hs, fun u hu => ?step⟩, fun s t hs h => ?exits⟩
  case step =>
    rw [step_of_nextRequest_step hu]
    exact engineStep_of_faulted ((nextRequest_faulted hu).trans hs)
  case exits =>
    rw [step_eq] at h
    exact serve_keeps_faulted ((nextRequest_faulted rfl).trans hs) h

/-! ## The stack of an interrupt entry -/

theorem toNat_sp_sub_two (sp : Byte) : (sp - 2).toNat = (sp.toNat + 254) % 256 := by
  rw [BitVec.toNat_sub, Nat.add_comm]
  rfl

/-- The three cells of an interrupt entry are distinct, also where SP wraps (60_exceptions R246). -/
theorem sp_sub_two_ne (sp : Byte) : (sp - 2).toNat ≠ sp.toNat ∧ (sp - 2).toNat ≠ (sp - 1).toNat := by
  have := sp.isLt
  rw [toNat_sp_sub_two, toNat_sp_sub_one]
  omega

/-- What every cell of a canonical memory reads after three writes: the last write to a cell counts. -/
theorem Memory.read_write_write_write {m : Memory} (hm : Memory.wf m = true) (i j k n : Nat) (a b c : Byte) :
    (((m.write i a).write j b).write k c).read n =
      if n = k then c else if n = j then b else if n = i then a else m.read n := by
  have hi := Memory.wf_write i a hm
  rw [Memory.read_write (Memory.wf_write j b hi), Memory.read_write hi, Memory.read_write hm]

/-! ## The interrupt entry -/

/-- From every sound state the interrupt sequence of a vector in ROM completes with the entry of that vector
(60_exceptions R246). -/
theorem interruptSequence_takesInterrupt {vector : Word} (hv : 0x8000 ≤ vector.toNat)
    (hv1 : vector.toNat + 1 < 0x10000) (force : Bool) {s : State} (hs : Sound s) :
    ∃ t, interruptSequence vector force s = .next t ∧ TakesInterrupt vector force s t := by
  have hentry := interruptSequence_eq hv hv1 force s
  have hrom {k : Nat} (hk : 0x800 ≤ k) := (interruptSequence_ramOnly hentry).read_of_le hk
  obtain ⟨hwf, -⟩ := hs
  have hhi := sp_sub_one_ne s.sp
  obtain ⟨hlo, hst⟩ := sp_sub_two_ne s.sp
  refine ⟨_, hentry, rfl, congrArg₂ wordOf (hrom (by omega)) (hrom (by omega)), ?low, ?high, ?status, ?others⟩
  case low => rw [Memory.read_write_write_write hwf, if_neg (by omega), if_neg (by omega), if_pos rfl]
  case high => rw [Memory.read_write_write_write hwf, if_neg (by omega), if_pos rfl]
  case status => rw [Memory.read_write_write_write hwf, if_pos rfl]
  case others =>
    intro k hklo hkhi hkst
    rw [Memory.read_write_write_write hwf, if_neg hkst, if_neg hkhi, if_neg hklo]

theorem irqTaken_iff {s : State} : irqTaken s = true ↔ s.irqPending = true ∧ getFlag .i s.p = false := by
  simp [irqTaken]

/-- A Running engine whose poll takes the IRQ enters the interrupt, and fetches nothing (60_exceptions R245). -/
theorem engineStep_of_irqTaken {s : State} (hf : s.faulted = false) (hirq : irqTaken s = true) :
    engineStep s = interruptSequence irqVector false (s.setStarted true) := by
  have hirq' : irqTaken (s.setStarted true) = true := hirq
  simp only [engineStep, hf, hirq', Bool.false_eq_true, if_false, if_true]

/-- Settles O50: the poll takes the IRQ, and the whole step is the entry of the vector 0xFFFE. -/
theorem unmaskedIrqIsTaken : Obligations.UnmaskedIrqIsTaken := by
  intro s u hs hu hf hpending hmask
  have hframe := nextRequest_frame hu
  have hrunning : u.faulted = false := (nextRequest_faulted hu).trans hf
  have hirq : irqTaken u = true := by
    rw [hframe]
    exact irqTaken_iff.mpr ⟨hpending, hmask⟩
  have hsound : Sound (u.setStarted true) := by
    rw [hframe]
    exact hs
  rw [step_of_nextRequest_step hu, engineStep_of_irqTaken hrunning hirq]
  exact interruptSequence_takesInterrupt (vector := irqVector) (by decide) (by decide) false hsound

end Sys2Proof.Machine
end

section
/-!
PROOFS. The statements of the whole machine: what every move keeps.
-/

namespace Sys2Proof.Machine

/-! ## What the cells of memory are after a move -/

/-- Writes to RAM keep a memory sound. -/
theorem RamOnly.sound {s t : State} (h : RamOnly s.mem t.mem) (hs : Sound s) : Sound t :=
  ⟨h.wf hs.1, h.backed hs.2⟩

theorem sound_of_mem_eq {s t : State} (h : t.mem = s.mem) (hs : Sound s) : Sound t :=
  RamOnly.sound (h ▸ .refl) hs

/-- The key of a byte placed in RAM is backed, and that of a byte placed in ROM. -/
theorem backedKey_of_lt {k : Nat} (h : k < 0x800) : backedKey k = true := by simp [backedKey, h]

theorem backedKey_of_ge {k : Nat} (h : 0x8000 ≤ k) (h' : k < 0x10000) : backedKey k = true := by
  simp [backedKey, h, h']

/-- A reset leaves the memory sound: RAM_INIT below the ROM cells there were (10_state R46). -/
theorem sound_resetTo {s : State} (hs : Sound s) (v : ResetValues) : Sound (resetTo v s) := by
  obtain ⟨hwf, hbacked⟩ := hs
  refine ⟨Memory.wf_resetRam hwf v.ram,
    Memory.backed_append (Memory.backed_cellsFrom _ _ ?_) (Memory.backed_filter _ hbacked)⟩
  intro j _ hj
  have hlen : (v.ram.take 0x800).length ≤ 0x800 := List.length_take_le ..
  exact backedKey_of_lt (by omega)

/-- The loader leaves the memory sound: the RAM cells there were below the image (10_state R43). -/
theorem sound_loadRom {s : State} (hs : Sound s) (image : List Byte) :
    Sound (s.setMem (s.mem.ramPart ++ Memory.cellsFrom 0x8000 (image.take 0x8000))) := by
  obtain ⟨hwf, hbacked⟩ := hs
  refine ⟨Memory.wf_loadRom hwf image,
    Memory.backed_append (Memory.backed_filter _ hbacked) (Memory.backed_cellsFrom _ _ ?_)⟩
  intro j hlo hj
  have hlen : (image.take 0x8000).length ≤ 0x8000 := List.length_take_le ..
  exact backedKey_of_ge hlo (by omega)

/-- The state in which the next request is served: the schedule advanced, and nothing else. -/
theorem nextRequest_snd (s : State) :
    (nextRequest s).2 = { s with agenda := (nextRequest s).2.agenda, driver := (nextRequest s).2.driver } :=
  nextRequest_frame (r := (nextRequest s).1) rfl

theorem nextRequest_mem (s : State) : (nextRequest s).2.mem = s.mem := by rw [nextRequest_snd]

/-- Every request that completes keeps a sound state sound (10_state R34 to R38, R43, R46). -/
theorem serve_sound {r : Request} {s t : State} (hs : Sound s) (h : serve r s = .next t) : Sound t := by
  rcases serve_cases h with ⟨-, hstep⟩ | ⟨-, -, rfl⟩ | ⟨-, -, hentry⟩ | ⟨level, -, rfl⟩ | ⟨v, -, rfl⟩ | ⟨w, -, -, rfl⟩ |
    ⟨image, -, -, rfl⟩
  · exact (engineStep_ramOnly hstep).sound hs
  · exact hs
  · exact (interruptSequence_ramOnly hentry).sound hs
  · exact hs
  · exact sound_resetTo hs v
  · exact hs
  · exact sound_loadRom hs image

/-- Settles O55: a step and an NMI write RAM cells only, and reset and the loader place bytes at backed keys. -/
theorem everyStepKeepsTheStateSound : Obligations.EveryStepKeepsTheStateSound := by
  intro s t hs h
  rw [step_eq] at h
  exact serve_sound (sound_of_mem_eq (nextRequest_mem s) hs) h

/-! ## ROM and the opcode map -/

/-- Looking at ROM is reading the cell of its address (20_memory R57). -/
theorem peek_rom {addr : Word} (h : 0x8000 ≤ addr.toNat) (s : State) : peek s addr = s.mem.read addr.toNat := by
  have hcell : cellOf addr = some addr.toNat := by
    unfold cellOf
    dsimp only
    rw [if_neg (by omega), if_neg (by omega)]
  simp only [peek, hcell]

/-- Behind cells with other keys, a key reads the cells joined to them. -/
theorem Memory.read_append_right {m : Memory} {k : Nat} (hm : ∀ c ∈ m, c.1 ≠ k) (n : Memory) :
    Memory.read (m ++ n) k = Memory.read n k := by
  have hnone : ¬ m.any (fun cell => cell.1 == k) = true := by
    simp only [List.any_eq_true, beq_iff_eq]
    rintro ⟨c, hc, hk⟩
    exact hm c hc hk
  rw [Memory.read_append, if_neg hnone]

/-- A key that a filter keeps reads in the filtered memory as before. -/
theorem Memory.read_filter {q : Host.Cell → Bool} {k : Nat} (hq : ∀ b, q (k, b) = true) :
    ∀ m : Memory, Memory.read (m.filter q) k = Memory.read m k
  | [] => rfl
  | (j, b) :: rest => by
    have ih := Memory.read_filter hq rest
    rw [List.filter_cons, Memory.read_cons]
    by_cases hj : j = k
    · subst hj
      rw [if_pos (hq b), if_pos rfl, Memory.read_cons, if_pos rfl]
    · rw [if_neg hj]
      split_ifs
      · rw [Memory.read_cons, if_neg hj, ih]
      · exact ih

theorem Memory.read_romPart {k : Nat} (hk : 0x8000 ≤ k) (m : Memory) : m.romPart.read k = m.read k :=
  Memory.read_filter (fun _ => decide_eq_true hk) m

/-- A reset keeps every ROM byte (log entry 17). -/
theorem read_rom_resetTo (v : ResetValues) (s : State) {k : Nat} (hk : 0x8000 ≤ k) :
    (resetTo v s).mem.read k = s.mem.read k := by
  refine (Memory.read_append_right (fun c hc => ?_) _).trans (Memory.read_romPart hk s.mem)
  have hlen : (v.ram.take 0x800).length ≤ 0x800 := List.length_take_le ..
  have hkey := (Memory.mem_cellsFrom hc).2
  omega

/-- No request but `rom_load` changes a ROM byte (10_state R43, 20_memory R58, R84). -/
theorem serve_read_rom {r : Request} {s t : State} (h : serve r s = .next t) (hr : ∀ image, r ≠ .romLoad image)
    {k : Nat} (hk : 0x8000 ≤ k) : t.mem.read k = s.mem.read k := by
  rcases serve_cases h with ⟨-, hstep⟩ | ⟨-, -, rfl⟩ | ⟨-, -, hentry⟩ | ⟨level, -, rfl⟩ | ⟨v, -, rfl⟩ | ⟨w, -, -, rfl⟩ |
    ⟨image, himage, -⟩
  · exact (engineStep_ramOnly hstep).read_of_le (by omega)
  · rfl
  · exact (interruptSequence_ramOnly hentry).read_of_le (by omega)
  · rfl
  · exact read_rom_resetTo v s hk
  · rfl
  · exact absurd himage (hr image)

/-- An interrupt entry keeps the fields no instruction writes (60_exceptions R246). -/
theorem interruptSequence_sameMachinery {vector : Word} (hv : 0x8000 ≤ vector.toNat)
    (hv1 : vector.toNat + 1 < 0x10000) {force : Bool} {s t : State} (h : interruptSequence vector force s = .next t) :
    SameMachinery s t := by
  rw [interruptSequence_eq hv hv1] at h
  cases h
  exact ⟨rfl, rfl, rfl, rfl, rfl, rfl, rfl⟩

/-- A completed step of a Running engine leaves the mark started, and OPCODE_MAP in force. -/
theorem engineStep_of_running {s t : State} (hf : s.faulted = false) (h : engineStep s = .next t) :
    t.started = true ∧ t.opcodeMap = s.opcodeMap := by
  rcases engineStep_cases h with ⟨hfaulted, -⟩ | ⟨-, -, hentry⟩ | ⟨-, -, opc, u, hu, hrun⟩
  · rw [hf] at hfaulted
    cases hfaulted
  · obtain ⟨-, -, -, hstarted, -, -, hmap⟩ := interruptSequence_sameMachinery (by decide) (by decide) hentry
    exact ⟨hstarted, hmap⟩
  · have hfetch : OnlyFetch (s.setStarted true) u := by
      simpa only [hu] using fetch_onlyFetch (s.setStarted true)
    rcases hrun with ⟨-, rfl⟩ | ⟨mn, md, -, hrow⟩
    · rw [hfetch]
      exact ⟨rfl, rfl⟩
    · obtain ⟨v, hv, rfl⟩ := runRow_cases hrow
      obtain ⟨-, -, -, -, hstarted, -, -, hmap⟩ := runRule_keeps hv
      rw [hfetch.trans (fetchOperand_onlyFetch md u)] at hstarted hmap
      exact ⟨hstarted, hmap⟩

theorem engineStep_opcodeMap {s t : State} (h : engineStep s = .next t) : t.opcodeMap = s.opcodeMap := by
  cases hf : s.faulted with
  | true =>
    rw [engineStep_of_faulted hf] at h
    cases h
    rfl
  | false => exact (engineStep_of_running hf h).2

/-- No request writes OPCODE_MAP (00_scope R7). -/
theorem serve_opcodeMap {r : Request} {s t : State} (h : serve r s = .next t) : t.opcodeMap = s.opcodeMap := by
  rcases serve_cases h with ⟨-, hstep⟩ | ⟨-, -, rfl⟩ | ⟨-, -, hentry⟩ | ⟨level, -, rfl⟩ | ⟨v, -, rfl⟩ | ⟨w, -, -, rfl⟩ |
    ⟨image, -, -, rfl⟩
  · exact engineStep_opcodeMap hstep
  · rfl
  · obtain ⟨-, -, -, -, -, -, hmap⟩ := interruptSequence_sameMachinery (by decide) (by decide) hentry
    exact hmap
  all_goals rfl

theorem nextRequest_opcodeMap (s : State) : (nextRequest s).2.opcodeMap = s.opcodeMap := by
  rw [nextRequest_snd]

/-- Settles O56: a ROM byte is the cell of its address, which only the loader writes. -/
theorem onlyTheLoaderWritesRom : Obligations.OnlyTheLoaderWritesRom := by
  intro s t h
  rw [step_eq] at h
  refine ⟨(serve_opcodeMap h).trans (nextRequest_opcodeMap s), fun hr addr haddr => ?_⟩
  rw [peek_rom haddr, peek_rom haddr, serve_read_rom h hr haddr, nextRequest_mem]

end Sys2Proof.Machine
end

section
/-!
PROOFS. The rule of a mnemonic, kind by kind.
-/

namespace Sys2Proof.Machine

section
variable {mn : Mnemonic}

/-! ## What a mnemonic's rule does on an operand, by the kind of the rule (30_encoding R93 to R95) -/

theorem runRule_value {f : Byte → State → State} (h : ruleOf mn = .value f) (o : Operand) (s : State) :
    runRule mn o s = .next (f (takeValue o s).1 (takeValue o s).2) := by
  unfold runRule
  rw [h]

theorem runRule_store_accumulator {v : State → Byte} (h : ruleOf mn = .store v) (s : State) :
    runRule mn .accumulator s = .next (s.setA (v s)) := by
  unfold runRule
  rw [h]

theorem runRule_store {v : State → Byte} (h : ruleOf mn = .store v) {o : Operand} (ho : o ≠ .accumulator) (s : State) :
    runRule mn o s = storePlace (takePlace o s).1 v (takePlace o s).2 := by
  unfold runRule
  rw [h]
  cases o with
  | accumulator => exact absurd rfl ho
  | _ => rfl

theorem runRule_modify_accumulator {res flags : Byte → Byte → Byte} (h : ruleOf mn = .modify res flags) (s : State) :
    runRule mn .accumulator s = .next ((s.setA (res s.p s.a)).setP (flags s.p s.a)) := by
  unfold runRule
  rw [h]

theorem runRule_modify {res flags : Byte → Byte → Byte} (h : ruleOf mn = .modify res flags) {o : Operand}
    (ho : o ≠ .accumulator) (s : State) :
    runRule mn o s = modifyPlace (takePlace o s).1 res flags (takePlace o s).2 := by
  unfold runRule
  rw [h]
  cases o with
  | accumulator => exact absurd rfl ho
  | _ => rfl

theorem runRule_jump (h : ruleOf mn = .jump) (o : Operand) (s : State) :
    runRule mn o s = jumpTo (takePlace o s).1 (takePlace o s).2 := by
  unfold runRule
  rw [h]

theorem runRule_call (h : ruleOf mn = .call) (o : Operand) (s : State) :
    runRule mn o s = callTo (takePlace o s).1 (takePlace o s).2 := by
  unfold runRule
  rw [h]

theorem runRule_branch {test : Byte → Bool} (h : ruleOf mn = .branch test) (o : Operand) (s : State) :
    runRule mn o s = branchIf (test (takeDisplacement o s).2.p) (takeDisplacement o s).1 (takeDisplacement o s).2 := by
  unfold runRule
  rw [h]

theorem runRule_alone {run : State → Host.Outcome State Fault Refusal} (h : ruleOf mn = .alone run) (o : Operand)
    (s : State) : runRule mn o s = run (resolveOnly o s) := by
  unfold runRule
  rw [h]

end

end Sys2Proof.Machine
end

section
/-!
PROOFS. The bits I, D, `P[4]` and `P[5]`, which nothing reads but the pushes and the IRQ poll.
-/

namespace Sys2Proof.Machine

/-- The state with the bits of `m` flipped in the status byte. -/
def flipP (m : Byte) (s : State) : State := s.setP (s.p ^^^ m)

theorem flipP_p (m : Byte) (s : State) : (flipP m s).p = s.p ^^^ m := rfl

theorem flipP_pc (m : Byte) (s : State) : (flipP m s).pc = s.pc := rfl

/-! ## Operations that do not look at the status byte -/

theorem memRead_flipP (m : Byte) (addr : Word) (s : State) :
    memRead addr (flipP m s) = ((memRead addr s).1, flipP m (memRead addr s).2) := by
  unfold memRead gfxRead
  dsimp only
  split_ifs
  · rfl
  · split <;> rfl
  all_goals rfl

theorem effectiveAddress_flipP (m : Byte) (o : Place) (s : State) :
    effectiveAddress o (flipP m s) = ((effectiveAddress o s).1, flipP m (effectiveAddress o s).2) := by
  cases o with
  | indx d | indy d | ind a =>
    simp only [effectiveAddress, memRead_flipP] <;> rfl
  | _ => rfl

theorem readPlace_flipP (m : Byte) (o : Place) (s : State) :
    readPlace o (flipP m s) = ((readPlace o s).1, flipP m (readPlace o s).2) := by
  simp only [readPlace, effectiveAddress_flipP, memRead_flipP]

theorem takeValue_flipP (m : Byte) (o : Operand) (s : State) :
    takeValue o (flipP m s) = ((takeValue o s).1, flipP m (takeValue o s).2) := by
  cases o with
  | memory place => exact readPlace_flipP m place s
  | _ => rfl

theorem takePlace_flipP (m : Byte) (o : Operand) (s : State) :
    takePlace o (flipP m s) = ((takePlace o s).1, flipP m (takePlace o s).2) := by cases o <;> rfl

theorem resolveOnly_flipP (m : Byte) (o : Operand) (s : State) :
    resolveOnly o (flipP m s) = flipP m (resolveOnly o s) := by
  cases o with
  | memory place => exact congrArg Prod.snd (effectiveAddress_flipP m place s)
  | _ => rfl

theorem takeDisplacement_flipP (m : Byte) (o : Operand) (s : State) :
    takeDisplacement o (flipP m s) = ((takeDisplacement o s).1, flipP m (takeDisplacement o s).2) := by
  cases o with
  | memory place =>
    simp only [takeDisplacement, resolveOnly_flipP]
    rfl
  | _ => rfl

theorem memWrite_flipP (m : Byte) (ea : Word) (v : Byte) (s : State) :
    memWrite ea v (flipP m s) = onNext (memWrite ea v s) (flipP m) := by
  unfold memWrite gfxWrite oamDma
  dsimp only
  split_ifs
  · rfl
  · split <;> rfl
  all_goals rfl

theorem onNext_onNext (o : Host.Outcome State Fault Refusal) (f g : State → State) :
    onNext (onNext o f) g = onNext o fun s => g (f s) := by cases o <;> rfl

theorem pushAddress_flipP (m : Byte) (r : Word) (s : State) :
    pushAddress r (flipP m s) = onNext (pushAddress r s) (flipP m) := by
  rw [pushAddress_eq, pushAddress_eq]
  rfl

/-- A store writes A, X or Y. -/
theorem storeRule_flipP {mn : Mnemonic} {v : State → Byte} (hv : ruleOf mn = .store v) (m : Byte) (s : State) :
    v (flipP m s) = v s := by
  cases mn <;> cases hv <;> rfl

/-! ## Flags written beside the bits flipped -/

theorem getFlag_xor {f : Flag} {m : Byte} (hf : m.getLsbD f.bit = false) (p : Byte) :
    getFlag f (p ^^^ m) = getFlag f p := by
  rw [getFlag, BitVec.getLsbD_xor, hf, Bool.xor_false, getFlag]

theorem putFlag_xor {f : Flag} {m : Byte} (hf : m.getLsbD f.bit = false) (b : Bool) (p : Byte) :
    putFlag f b (p ^^^ m) = putFlag f b p ^^^ m := by
  refine status_ext fun k hk => ?_
  rw [BitVec.getLsbD_xor, getLsbD_putFlag f hk, getLsbD_putFlag f hk, BitVec.getLsbD_xor]
  split_ifs with h
  · rw [h, hf, Bool.xor_false]
  · rfl

section
variable {m : Byte} (hm : m &&& 0x3C = m)
include hm

/-- The bits of the mask 0x3C are none of C, Z, V and N (10_state R27). -/
theorem getLsbD_bit_of_mask {f : Flag} (hf : f ∈ [Flag.c, .z, .v, .n]) : m.getLsbD f.bit = false := by
  have hmask : (0x3C : Byte).getLsbD f.bit = false := by
    revert hf
    cases f <;> decide
  rw [← hm, BitVec.getLsbD_and, hmask, Bool.and_false]

theorem getFlag_xor_mask {f : Flag} (hf : f ∈ [Flag.c, .z, .v, .n]) (p : Byte) : getFlag f (p ^^^ m) = getFlag f p :=
  getFlag_xor (getLsbD_bit_of_mask hm hf) p

theorem putFlag_xor_mask {f : Flag} (hf : f ∈ [Flag.c, .z, .v, .n]) (b : Bool) (p : Byte) :
    putFlag f b (p ^^^ m) = putFlag f b p ^^^ m :=
  putFlag_xor (getLsbD_bit_of_mask hm hf) b p

theorem setZ_xor (v p : Byte) : setZ v (p ^^^ m) = setZ v p ^^^ m := putFlag_xor_mask hm (by decide) _ p

theorem setN_xor (v p : Byte) : setN v (p ^^^ m) = setN v p ^^^ m := putFlag_xor_mask hm (by decide) _ p

theorem setZN_xor (v p : Byte) : setZN v (p ^^^ m) = setZN v p ^^^ m := by
  rw [setZN, setZ_xor hm, setN_xor hm, setZN]

/-- An effect on a byte reads C alone of the status byte, and writes C, Z, V and N alone (10_state R29). -/
theorem valueRule_flipP {mn : Mnemonic} {f : Byte → State → State} (hf : ruleOf mn = .value f) (v : Byte) (s : State) :
    f v (flipP m s) = flipP m (f v s) := by
  cases mn <;> cases hf <;>
    simp (disch := decide) only [loadA, loadX, loadY, addWithCarry, subtractWithBorrow, andA, orA, eorA, bitTest,
      compareA, compareX, compareY, flipP, State.setP_p, adcFlags, sbcFlags, bitFlags, compareFlags, setZN_xor hm,
      getFlag_xor_mask hm, putFlag_xor_mask hm] <;> rfl

/-- A modification reads C alone of the status byte, and writes C, Z and N alone (10_state R29). -/
theorem modifyRule_xor {mn : Mnemonic} {res flags : Byte → Byte → Byte} (hr : ruleOf mn = .modify res flags)
    (p old : Byte) : res (p ^^^ m) old = res p old ∧ flags (p ^^^ m) old = flags p old ^^^ m := by
  cases mn <;> cases hr <;> constructor <;>
    simp (disch := decide) only [aslFlags, lsrFlags, rolFlags, rorFlags, setZ_xor hm, setN_xor hm, setZN_xor hm,
      getFlag_xor_mask hm, putFlag_xor_mask hm]

/-- A branch tests C, Z, V or N. -/
theorem branchRule_xor {mn : Mnemonic} {test : Byte → Bool} (ht : ruleOf mn = .branch test) (p : Byte) :
    test (p ^^^ m) = test p := by
  cases mn <;> cases ht <;> simp (disch := decide) only [getFlag_xor_mask hm]

/-- What a mnemonic does alone, but for the pushes and pulls of P, writes at most Z and N, or the one bit it is for. -/
theorem aloneRule_flipP {mn : Mnemonic} {run : State → Host.Outcome State Fault Refusal} (hr : ruleOf mn = .alone run)
    (hmn : mn ∉ reservedWriters) (hsei : mn = .sei → m.getLsbD 2 = false) (hcld : mn = .cld → m.getLsbD 3 = false)
    (s : State) : run (flipP m s) = onNext (run s) (flipP m) := by
  cases mn <;> cases hr
  case php | plp | rti | brk => exact absurd (by decide) hmn
  case sei => simp only [execSei, flipP, State.setP_p, putFlag_xor (f := .i) (hsei rfl)]; rfl
  case cld => simp only [execCld, flipP, State.setP_p, putFlag_xor (f := .d) (hcld rfl)]; rfl
  case pha => rw [execPha, execPha, push_eq, push_eq]; rfl
  case pla =>
    simp only [execPla, pop_eq, flipP, State.setP_p, State.setP_sp, State.setP_mem, State.setSp_p, setZN_xor hm]
    rfl
  case rts => simp only [execRts, popAddress_eq]; rfl
  all_goals
    simp (disch := decide) only [execInx, execIny, execDex, execDey, execTax, execTxa, execTay, execTya, execTxs,
      execSec, execClc, flipP, State.setP_x, State.setP_y, State.setP_a, State.setP_p, setZN_xor hm,
      putFlag_xor_mask hm]
    rfl

/-- A modification of a place commutes with flipping bits of the mask. -/
theorem modifyPlace_flipP {mn : Mnemonic} {res flags : Byte → Byte → Byte} (hr : ruleOf mn = .modify res flags)
    (o : Place) (s : State) : modifyPlace o res flags (flipP m s) = onNext (modifyPlace o res flags s) (flipP m) := by
  have hx := modifyRule_xor hm hr
  simp only [modifyPlace_eq, readPlace_flipP, effectiveAddress_flipP, onNext_onNext]
  rw [flipP_p, (hx _ _).1, memWrite_flipP, onNext_onNext]
  congr 1
  funext t
  rw [flipP_p, (hx _ _).2]
  rfl

/-- A mnemonic's rule, on an operand of any mode, commutes with flipping I, D and the reserved bits (10_state R29). -/
theorem runRule_flipP {mn : Mnemonic} (hmn : mn ∉ reservedWriters) (hsei : mn = .sei → m.getLsbD 2 = false)
    (hcld : mn = .cld → m.getLsbD 3 = false) (o : Operand) (s : State) :
    runRule mn o (flipP m s) = onNext (runRule mn o s) (flipP m) := by
  cases hr : ruleOf mn with
  | value f =>
    rw [runRule_value hr, runRule_value hr, takeValue_flipP, valueRule_flipP hm hr]
    rfl
  | store v =>
    by_cases ho : o = .accumulator
    · subst ho
      rw [runRule_store_accumulator hr, runRule_store_accumulator hr, storeRule_flipP hr]
      rfl
    · rw [runRule_store hr ho, runRule_store hr ho, takePlace_flipP]
      simp only [storePlace_eq, effectiveAddress_flipP, storeRule_flipP hr, memWrite_flipP]
  | modify res flags =>
    by_cases ho : o = .accumulator
    · subst ho
      have hx := modifyRule_xor hm hr s.p s.a
      rw [runRule_modify_accumulator hr, runRule_modify_accumulator hr]
      simp only [flipP, State.setP_p, State.setP_a, hx]
      rfl
    · rw [runRule_modify hr ho, runRule_modify hr ho, takePlace_flipP, modifyPlace_flipP hm hr]
  | jump =>
    rw [runRule_jump hr, runRule_jump hr, takePlace_flipP, jumpTo_eq, jumpTo_eq, effectiveAddress_flipP]
    rfl
  | call =>
    rw [runRule_call hr, runRule_call hr, takePlace_flipP, callTo_eq, callTo_eq]
    simp only [effectiveAddress_flipP, onNext_onNext]
    rw [flipP_pc, pushAddress_flipP, onNext_onNext]
    rfl
  | branch test =>
    rw [runRule_branch hr, runRule_branch hr, takeDisplacement_flipP]
    unfold branchIf
    rw [flipP_p, branchRule_xor hm hr]
    split_ifs <;> rfl
  | alone run => rw [runRule_alone hr, runRule_alone hr, resolveOnly_flipP, aloneRule_flipP hm hr hmn hsei hcld]

end

/-- Settles O59: an instruction is its mnemonic's rule, which commutes with flipping those bits. -/
theorem reservedBitsAndMasksStayUnread : Obligations.ReservedBitsAndMasksStayUnread := by
  intro i s m hi hm hsei hcld
  rw [exec_eq_runRule, exec_eq_runRule]
  refine runRule_flipP hm hi (fun h => hsei ?_) (fun h => hcld ?_) i.operand s
  all_goals cases i <;> first | rfl | cases h

end Sys2Proof.Machine
end

section
/-!
PROOFS. The statements of 30_encoding: the opcode map, and that encoding and decoding agree.
-/

namespace Sys2Proof

/-! ## Decoding an encoding -/

/-- The form makes instruction `i` of the operand bytes `i` has. -/
def Form.MakesInstr (i : Instr) : Form → Prop
  | .f1 j => i = j ∧ i.operand.bytes = []
  | .f2 k => ∃ d, i = k d ∧ i.operand.bytes = [d]
  | .f3 k => ∃ a, i = k a ∧ i.operand.bytes = [loByte a, hiByte a]

/-- The default map's form for the opcode byte of an instruction makes that instruction (30_encoding R110). -/
theorem standard_form_opcode (i : Instr) : ∃ f, OpcodeMap.standard.form i.opcode = .ok f ∧ f.MakesInstr i := by
  cases i <;> rw [Instr.opcode] <;> refine ⟨_, rfl, ?_⟩ <;> first | exact ⟨rfl, rfl⟩ | exact ⟨_, rfl, rfl⟩

theorem decode_encode (i : Instr) (rest : List Byte) : decode (encode i ++ rest) = .ok (i, rest) := by
  obtain ⟨f, hf, hmakes⟩ := standard_form_opcode i
  rw [encode, List.cons_append]
  cases f with
  | f1 j =>
    obtain ⟨rfl, hbytes⟩ := hmakes
    rw [hbytes]
    exact decodeWith_f1 hf rest
  | f2 k =>
    obtain ⟨d, hi, hbytes⟩ := hmakes
    rw [hbytes]
    refine (decodeWith_f2 hf d rest).trans ?_
    rw [hi]
  | f3 k =>
    obtain ⟨a, hi, hbytes⟩ := hmakes
    rw [hbytes]
    refine (decodeWith_f3 hf (loByte a) (hiByte a) rest).trans ?_
    rw [wordOf_hiByte_loByte, hi]

/-- Settles O3: the form of an instruction's opcode byte makes that instruction of its operand bytes. -/
theorem decodeOfEncodeIsTheInstruction : Obligations.DecodeOfEncodeIsTheInstruction :=
  fun i rest => ⟨i.wellFormed_eq_true, decode_encode i rest⟩

/-! ## Encoding what was decoded -/

/-- The opcode of an instruction decoded under the default map is the first byte (30_encoding R110). -/
theorem opcode_of_decode {opc : Byte} {tail rest : List Byte} {i : Instr}
    (h : decode (opc :: tail) = .ok (i, rest)) : i.opcode = opc := by
  rcases decodeWith_cases h with ⟨opc', hbytes, hf⟩ | ⟨opc', d, k, hbytes, hf, rfl⟩ | ⟨opc', lo, hi, k, hbytes, hf, rfl⟩
  all_goals
    obtain ⟨rfl, -⟩ := List.cons.inj hbytes
    have hopens := standard_opens hf
  · exact hopens
  · exact hopens d
  · exact hopens (wordOf hi lo)

/-- Settles O4: the row of the first byte fixes the operand bytes, and only its instructions have that opcode. -/
theorem decodedBytesAreTheEncoding : Obligations.DecodedBytesAreTheEncoding := by
  intro bytes i rest h
  obtain ⟨opc, rfl, -⟩ := decodeWith_row h
  rw [encode, opcode_of_decode h, List.cons_append]

end Sys2Proof

namespace Sys2Proof.Machine

/-! ## The default map and the table -/

/-- The default map gives each byte of the table the pair it stands with (30_encoding R110). -/
theorem standard_row_of_table (m : Mnemonic) : ∀ p ∈ opcodeTable m, OpcodeMap.standard.row p.2 = some (m, p.1) := by
  cases m <;> decide

/-- A byte that R113 lists has no row in the default map. -/
theorem standard_row_of_illegal : ∀ b ∈ illegalOpcodes, OpcodeMap.standard.row b = none := by
  have hall : (illegalOpcodes.all fun b => (OpcodeMap.standard.row b).isNone) = true := by decide
  simpa using hall

/-- Whether a byte stands in the table with the pair of its row, or, having none, in the list of illegal bytes. -/
def listedWith (b : Byte) : Option (Mnemonic × Mode) → Bool
  | none => illegalOpcodes.contains b
  | some (m, md) => (opcodeTable m).contains (md, b)

theorem listedWith_standard_low :
    ∀ n < 128, listedWith (BitVec.ofNat 8 n) (OpcodeMap.standard.row (BitVec.ofNat 8 n)) = true := by
  decide

theorem listedWith_standard_high :
    ∀ n < 128, listedWith (BitVec.ofNat 8 (128 + n)) (OpcodeMap.standard.row (BitVec.ofNat 8 (128 + n))) = true := by
  decide

/-- Every byte is listed with its row in the default map: the 145 of R110 and the 111 of R113 are all 256. -/
theorem listedWith_standard (b : Byte) : listedWith b (OpcodeMap.standard.row b) = true := by
  have hb : BitVec.ofNat 8 b.toNat = b := by simp
  by_cases h : b.toNat < 128
  · exact hb ▸ listedWith_standard_low b.toNat h
  · have := b.isLt
    have hn : 128 + (b.toNat - 128) = b.toNat := by omega
    have hhigh := listedWith_standard_high (b.toNat - 128) (by omega)
    rwa [hn, hb] at hhigh

theorem mem_table_iff_standard_row (m : Mnemonic) (md : Mode) (b : Byte) :
    (md, b) ∈ opcodeTable m ↔ OpcodeMap.standard.row b = some (m, md) := by
  refine ⟨standard_row_of_table m (md, b), fun h => ?_⟩
  have hlisted := listedWith_standard b
  rw [h] at hlisted
  exact List.contains_iff_mem.mp hlisted

theorem standard_row_eq_none_iff (b : Byte) : OpcodeMap.standard.row b = none ↔ b ∈ illegalOpcodes := by
  refine ⟨fun h => ?_, standard_row_of_illegal b⟩
  have hlisted := listedWith_standard b
  rw [h] at hlisted
  exact List.contains_iff_mem.mp hlisted

/-- The modes of a mnemonic's line of the table are those it has (30_encoding R110). -/
theorem map_fst_opcodeTable (m : Mnemonic) : (opcodeTable m).map Prod.fst = m.modes := by cases m <;> rfl

/-- The forms of a mnemonic are in its modes, one for each. -/
theorem map_row_forms (m : Mnemonic) : m.forms.map (fun f => f.row) = m.modes.map fun md => (m, md) := by
  cases m <;> rfl

/-- A mode of a mnemonic has a form, whose row is the pair of the two. -/
theorem formOf_of_mem_modes {m : Mnemonic} {md : Mode} (h : md ∈ m.modes) :
    ∃ f, formOf m md = some f ∧ f.row = (m, md) := by
  have hpairs : ∀ f ∈ m.forms, f.row.1 = m := by
    intro f hf
    have hrow : f.row ∈ m.modes.map fun md => (m, md) := map_row_forms m ▸ List.mem_map_of_mem hf
    obtain ⟨_, -, hr⟩ := List.mem_map.mp hrow
    rw [← hr]
  obtain ⟨f, hf, hr⟩ : ∃ f ∈ m.forms, f.row = (m, md) := by
    have hrow : (m, md) ∈ m.forms.map fun f => f.row := map_row_forms m ▸ List.mem_map_of_mem h
    exact List.mem_map.mp hrow
  obtain ⟨g, hg⟩ : ∃ g, formOf m md = some g := by
    refine Option.isSome_iff_exists.mp (List.find?_isSome.mpr ⟨f, hf, ?_⟩)
    rw [hr]
    exact decide_eq_true rfl
  have hmode : g.row.2 = md := by simpa using List.find?_some hg
  exact ⟨g, hg, Prod.ext (hpairs g (List.mem_of_find?_eq_some hg)) hmode⟩

/-- Settles O2: the 256 bytes are those of the table and those of the list, and each mode of a mnemonic has a form. -/
theorem theOpcodeMapIsTheTable : Obligations.TheOpcodeMapIsTheTable := by
  refine ⟨mem_table_iff_standard_row, standard_row_eq_none_iff, fun b m md h => ?_⟩
  have hmode : md ∈ m.modes := by
    rw [← map_fst_opcodeTable]
    exact List.mem_map_of_mem ((mem_table_iff_standard_row m md b).mpr h)
  obtain ⟨f, hf, hrow⟩ := formOf_of_mem_modes hmode
  exact ⟨f, form_ok.mpr ⟨m, md, h, hf⟩, hrow⟩

/-- Settles O1: each of the words is decoded in turn. -/
theorem decodesTheSpecsWords : Obligations.DecodesTheSpecsWords := by
  unfold Obligations.DecodesTheSpecsWords
  decide

end Sys2Proof.Machine
end

section
/-!
PROOFS. The statements of 20_memory: the peripheral windows, and what a read asks for.
-/

namespace Sys2Proof.Machine

/-! ## Reads of the peripheral windows -/

/-- The addresses whose read calls a peripheral: graphics indices 2 and 7, 0x4015 and 0x4016 (20_memory R62, R66,
R70). -/
abbrev ReadPortAt (addr : Word) : Prop :=
  0x2000 ≤ addr.toNat ∧ addr.toNat < 0x4000 ∧ addr.toNat % 8 ∈ [2, 7] ∨ addr.toNat ∈ [0x4015, 0x4016]

theorem memRead_gfx {addr : Word} (h : 0x2000 ≤ addr.toNat) (h' : addr.toNat < 0x4000) (s : State) :
    memRead addr s = gfxRead addr s := by
  unfold memRead
  dsimp only
  rw [if_neg (by omega), if_pos h']

theorem gfxRead_status {addr : Word} (h : addr.toNat % 8 = 2) (s : State) :
    gfxRead addr s = portRead .gfxReadStatus s := by simp only [gfxRead, h]

theorem gfxRead_data {addr : Word} (h : addr.toNat % 8 = 7) (s : State) :
    gfxRead addr s = portRead .gfxReadData s := by simp only [gfxRead, h]

theorem gfxRead_unlisted {addr : Word} (h : addr.toNat % 8 ∉ [2, 7]) (s : State) :
    gfxRead addr s = softRead addr s := by
  unfold gfxRead
  split
  · next hr => exact absurd (by simp [hr]) h
  · next hr => exact absurd (by simp [hr]) h
  · rfl

/-- A read outside RAM, ROM and the read ports is a soft failure (20_memory R63, R71, R73). -/
theorem memRead_soft {addr : Word} (h : 0x2000 ≤ addr.toNat) (h' : addr.toNat < 0x8000) (hport : ¬ ReadPortAt addr)
    (s : State) : memRead addr s = softRead addr s := by
  unfold ReadPortAt at hport
  push Not at hport
  obtain ⟨hgfx, hsound⟩ := hport
  by_cases hwin : addr.toNat < 0x4000
  · rw [memRead_gfx h hwin, gfxRead_unlisted (hgfx h hwin)]
  · simp only [List.mem_cons, List.not_mem_nil, or_false, not_or] at hsound
    unfold memRead
    dsimp only
    rw [if_neg (by omega), if_neg hwin, if_neg hsound.1, if_neg hsound.2, if_pos h']

/-- A read at a read port is one call of that port (20_memory R62, R66, R70). -/
theorem memRead_port {addr : Word} (hport : ReadPortAt addr) (s : State) :
    ∃ call, memRead addr s = portRead call s ∧
      (addr.toNat < 0x4000 →
        (addr.toNat % 8 = 2 → call = .gfxReadStatus) ∧ (addr.toNat % 8 = 7 → call = .gfxReadData)) := by
  rcases hport with ⟨h, h', hindex⟩ | hsound
  · rw [memRead_gfx h h']
    rcases List.mem_pair.mp hindex with h2 | h7
    · exact ⟨_, gfxRead_status h2 s, fun _ => ⟨fun _ => rfl, by omega⟩⟩
    · exact ⟨_, gfxRead_data h7 s, fun _ => ⟨by omega, fun _ => rfl⟩⟩
  · rcases List.mem_pair.mp hsound with h | h
    · obtain rfl : addr = 0x4015 := BitVec.eq_of_toNat_eq h
      exact ⟨.sndStatusRead, rfl, by decide⟩
    · obtain rfl : addr = 0x4016 := BitVec.eq_of_toNat_eq h
      exact ⟨.inputRead, rfl, by decide⟩

/-- A read of RAM or ROM changes nothing (20_memory R56, R57). -/
theorem memRead_memory {addr : Word} (h : addr.toNat < 0x2000 ∨ 0x8000 ≤ addr.toNat) (s : State) :
    (memRead addr s).2 = s := by
  rcases h with h | h
  · rw [memRead_ram h]
  · rw [memRead_rom h]

theorem not_readPortAt_of_memory {addr : Word} (h : addr.toNat < 0x2000 ∨ 0x8000 ≤ addr.toNat) : ¬ ReadPortAt addr := by
  simp only [ReadPortAt, List.mem_cons, List.not_mem_nil, or_false]
  omega

/-- Settles O17: an address is one of memory, a read port, or a soft failure, and a port read is one draw and one
record. -/
theorem everyReadAsksAPortAtMostOnce : Obligations.EveryReadAsksAPortAtMostOnce := by
  intro addr s
  refine ⟨memRead_onlyPorts addr s, ?_⟩
  by_cases hmem : addr.toNat < 0x2000 ∨ 0x8000 ≤ addr.toNat
  · rw [if_neg (not_readPortAt_of_memory hmem), if_pos hmem, memRead_memory hmem]
    exact ⟨rfl, by omega, rfl⟩
  by_cases hport : ReadPortAt addr
  · obtain ⟨call, hread, hcall⟩ := memRead_port hport s
    rw [if_pos hport, if_neg hmem, hread]
    refine ⟨⟨rfl, rfl⟩, fun _ hwin => ?_, _, rfl⟩
    obtain ⟨hstatus, hdata⟩ := hcall hwin
    exact ⟨fun h2 => by rw [hstatus h2]; rfl, fun h7 => by rw [hdata h7]; rfl⟩
  · rw [if_neg hport, if_neg hmem, memRead_soft (by omega) (by omega) hport]
    refine ⟨rfl, fun hlo hwin => ?_, _, rfl⟩
    exact ⟨fun h2 => absurd (.inl ⟨hlo, hwin, by simp [h2]⟩) hport,
      fun h7 => absurd (.inl ⟨hlo, hwin, by simp [h7]⟩) hport⟩

/-! ## Writes of the peripheral windows -/

theorem memWrite_gfx {addr : Word} (h : 0x2000 ≤ addr.toNat) (h' : addr.toNat < 0x4000) (v : Byte) (s : State) :
    memWrite addr v s = .next (gfxWrite addr v s) := by
  unfold memWrite
  dsimp only
  rw [if_neg (by omega), if_pos h']

theorem gfxWrite_unlisted {addr : Word} (h : addr.toNat % 8 ∈ [2, 4]) (v : Byte) (s : State) :
    gfxWrite addr v s = softWrite addr v s := by
  rcases List.mem_pair.mp h with h | h <;> simp only [gfxWrite, h]

/-- A write of a sound channel register is one call (20_memory R65). -/
theorem memWrite_channel {addr : Word} (h : 0x4000 ≤ addr.toNat) (h' : addr.toNat ≤ 0x4013) (v : Byte) (s : State) :
    memWrite addr v s = .next (emit (.sndChannelWrite (addr.toNat - 0x4000) v) s) := by
  unfold memWrite
  dsimp only
  rw [if_neg (by omega), if_neg (by omega), if_pos (by omega)]

/-- Settles O14: those reads are at no read port, and those writes at no write port. -/
theorem unlistedAccessesAreSoftFailures : Obligations.UnlistedAccessesAreSoftFailures := by
  intro addr s
  refine ⟨fun hlo hwin hindex => ?_, fun hlo hrange => ?_, fun v => ⟨fun hrom => ?_, fun hlo hwin hindex => ?_⟩⟩
  · refine memRead_soft hlo (by omega) ?_ s
    simp only [ReadPortAt, List.mem_cons, List.not_mem_nil, or_false] at hindex ⊢
    omega
  · refine memRead_soft (by omega) (by omega) ?_ s
    simp only [ReadPortAt, List.mem_cons, List.not_mem_nil, or_false]
    omega
  · exact memWrite_soft (by omega) v s
  · rw [memWrite_gfx hlo hwin, gfxWrite_unlisted hindex]
    rfl

/-- Settles O15: the index picks the port in the graphics window, and the channel window is one port. -/
theorem graphicsAndChannelWritesAreOneCall : Obligations.GraphicsAndChannelWritesAreOneCall := by
  intro addr v s
  refine ⟨fun r e hport hlo hwin hr => ?_, fun hlo hhi => memWrite_channel hlo hhi v s⟩
  rw [memWrite_gfx hlo hwin]
  simp only [List.mem_cons, List.not_mem_nil, or_false, Prod.mk.injEq] at hport
  rcases hport with ⟨rfl, rfl⟩ | ⟨rfl, rfl⟩ | ⟨rfl, rfl⟩ | ⟨rfl, rfl⟩ | ⟨rfl, rfl⟩ | ⟨rfl, rfl⟩
  all_goals
    simp only [gfxWrite, hr]
    rfl

/-- Settles O16: at these fixed addresses the dispatcher is one call. -/
theorem statusAndInputPortsAreOneCall : Obligations.StatusAndInputPortsAreOneCall :=
  fun _ => ⟨rfl, rfl, fun _ => ⟨rfl, rfl, rfl⟩⟩

end Sys2Proof.Machine
end

section
/-!
PROOFS. The statements of 30_encoding: effective addresses and operand values.
-/

namespace Sys2Proof.Machine

/-! ## Pointers in RAM -/

/-- A read at a pointer that is not reduced to the zero page is still one of RAM below 0x0800 (30_encoding R103,
R104). -/
theorem memRead_pointer {n : Nat} (h : n < 0x800) (s : State) : memRead (BitVec.ofNat 16 n) s = (s.mem.read n, s) := by
  have htoNat : (BitVec.ofNat 16 n).toNat = n := Nat.mod_eq_of_lt (by omega)
  rw [memRead_ram (by omega), htoNat, Nat.mod_eq_of_lt h]

theorem effectiveAddress_indx (d : Byte) (s : State) :
    effectiveAddress (.indx d) s =
      (wordOf (s.mem.read (d.toNat + s.x.toNat + 1)) (s.mem.read (d.toNat + s.x.toNat)), s) := by
  have := d.isLt
  have := s.x.isLt
  simp only [effectiveAddress, memRead_pointer (n := d.toNat + s.x.toNat) (by omega),
    memRead_pointer (n := d.toNat + s.x.toNat + 1) (by omega)]

theorem effectiveAddress_indy (d : Byte) (s : State) :
    effectiveAddress (.indy d) s =
      (BitVec.ofNat 16 ((wordOf (s.mem.read (d.toNat + 1)) (s.mem.read d.toNat)).toNat + s.y.toNat), s) := by
  have := d.isLt
  simp only [effectiveAddress, memRead_pointer (n := d.toNat) (by omega), memRead_pointer (n := d.toNat + 1) (by omega)]

/-- Settles O20: the pointers are in RAM, so that reading them changes nothing, and the sums wrap at 65536. -/
theorem indexedAndIndirectAddressesAreExact : Obligations.IndexedAndIndirectAddressesAreExact := by
  refine ⟨fun a s => ⟨⟨_, rfl, BitVec.toNat_ofNat _ _⟩, ⟨_, rfl, BitVec.toNat_ofNat _ _⟩⟩, fun d s =>
    ⟨⟨_, effectiveAddress_indx d s, ?_⟩, ⟨_, effectiveAddress_indy d s, ?_⟩⟩⟩
  · rw [toNat_wordOf, Nat.add_comm]
  · rw [BitVec.toNat_ofNat, toNat_wordOf, Nat.add_comm (_ * 256)]

/-! ## Operand values -/

/-- A mnemonic whose rule is an effect on a byte has an operand value in each of its forms (30_encoding R94). -/
theorem operandValue_isSome {i : Instr} {f : Byte → State → State} (hf : valueEffect i.mnemonic = some f) (s : State) :
    (operandValue i.operand s).isSome = true := by
  obtain ⟨m, u, hu, -⟩ := exec_value hf s
  rw [hu]
  rfl

/-- Settles O22: an operand value is read off the operand, and a memory one is one bus read. -/
theorem operandValueIsTheLiteralOrOneRead : Obligations.OperandValueIsTheLiteralOrOneRead := by
  refine ⟨fun _ => rfl, fun _ _ => rfl, fun _ _ => rfl, fun i s hi => ?_⟩
  obtain ⟨f, hf⟩ : ∃ f, valueEffect i.mnemonic = some f := by
    revert hi
    cases i.mnemonic <;> first | exact fun _ => ⟨_, rfl⟩ | exact fun h => absurd h (by decide)
  exact operandValue_isSome hf s

/-- Settles O39: a jump loads PC with its effective address. -/
theorem jumpsLoadThePc : Obligations.JumpsLoadThePc :=
  fun a s => ⟨jumpTo_eq (.abs a) s, _, _, rfl, effectiveAddress_onlyPorts (.ind a) s, jumpTo_eq (.ind a) s⟩

end Sys2Proof.Machine
end

section
/-!
PROOFS. The statements of 40_load_store, 41_arithmetic, 42_logic and 44_compares about the value-style mnemonics.
-/

namespace Sys2Proof.Machine

/-! ## The shape of a value-style instruction -/

theorem OnlyPorts.a {s u : State} (h : OnlyPorts s u) : u.a = s.a := by rw [h]

theorem OnlyPorts.x {s u : State} (h : OnlyPorts s u) : u.x = s.x := by rw [h]

theorem OnlyPorts.y {s u : State} (h : OnlyPorts s u) : u.y = s.y := by rw [h]

theorem OnlyPorts.p {s u : State} (h : OnlyPorts s u) : u.p = s.p := by rw [h]

theorem OnlyPorts.mem {s u : State} (h : OnlyPorts s u) : u.mem = s.mem := by rw [h]

/-- A value-style instruction completes with its mnemonic's effect on the operand value, whose taking changes at most
the ports (30_encoding R94). -/
theorem valueResult_of_effect {i : Instr} {f : Byte → State → State} (hf : valueEffect i.mnemonic = some f) {s : State}
    {Q : Byte → State → State → Prop} (hQ : ∀ m u, OnlyPorts s u → Q m u (f m u)) : ValueResult i s Q := by
  obtain ⟨m, u, hu, he⟩ := exec_value hf s
  have hports := operandValue_onlyPorts hu
  exact ⟨m, u, f m u, hu, hports, he, hQ m u hports⟩

theorem valueEffect_of_mnemonic {i : Instr} {mn : Mnemonic} {f : Byte → State → State} (h : i.mnemonic = mn)
    (hf : valueEffect mn = some f) : valueEffect i.mnemonic = some f := h ▸ hf

/-- Settles O23: the effect of a load writes the operand value to its register, and Z and N. -/
theorem loadsFillTheirRegister : Obligations.LoadsFillTheirRegister := by
  intro i s
  refine ⟨fun h => valueResult_of_effect (valueEffect_of_mnemonic h rfl) fun m u hu => ⟨rfl, ?_⟩,
    fun h => valueResult_of_effect (valueEffect_of_mnemonic h rfl) fun m u hu => ⟨rfl, ?_⟩,
    fun h => valueResult_of_effect (valueEffect_of_mnemonic h rfl) fun m u hu => ⟨rfl, ?_⟩⟩
  all_goals exact hu.p ▸ znFrom_setZN m u.p

/-! ## ADC and SBC -/

theorem msb_eq_getLsbD_seven (v : Byte) : v.msb = v.getLsbD 7 := BitVec.msb_eq_getLsbD_last v

/-- The four flags that ADC and SBC write, of a result `res` and a carry `c`, and the bits they leave (41_arithmetic
R141 to R143). -/
theorem arithmetic_flags (c : Bool) (m res p : Byte) :
    let q := setZN res (putFlag .v (overflowBit m res) (putFlag .c c p))
    getFlag .c q = c ∧ getFlag .v q = (!m.getLsbD 7 && res.getLsbD 7) ∧ getFlag .z q = decide (res = 0) ∧
      getFlag .n q = res.getLsbD 7 ∧ SameBitsBut [.c, .v, .z, .n] p q := by
  have hbits := ((((SameBitsBut.refl [.c, .v, .z, .n] p).putFlag (f := .c) (by decide) c).putFlag (f := .v) (by decide)
    (overflowBit m res)).putFlag (f := .z) (by decide) (res == 0)).putFlag (f := .n) (by decide) res.msb
  refine ⟨by simp, ?_, by simp [beq_eq_decide], by simp [msb_eq_getLsbD_seven], hbits⟩
  simp [overflowBit, msb_eq_getLsbD_seven]

/-- The result byte of ADC and its carry are the exact sum (41_arithmetic R141). -/
theorem adcResult_exact (m acc : Byte) (c : Bool) :
    (adcResult m acc c).toNat + 256 * (decide (adcSum m acc c > 255)).toNat = m.toNat + acc.toNat + c.toNat := by
  have hm := m.isLt
  have hacc := acc.isLt
  have hc := c.toNat_le
  have hres : (adcResult m acc c).toNat = (m.toNat + acc.toNat + c.toNat) % 256 := BitVec.toNat_ofNat _ _
  rw [hres]
  by_cases hcarry : adcSum m acc c > 255
  · rw [decide_eq_true hcarry, Bool.toNat_true]
    unfold adcSum at hcarry
    omega
  · rw [decide_eq_false hcarry, Bool.toNat_false]
    unfold adcSum at hcarry
    omega

/-- The result byte of SBC and its borrow are the exact difference (41_arithmetic R143). -/
theorem sbcResult_exact (m acc : Byte) (c : Bool) :
    (sbcResult m acc c).toNat + m.toNat + (!c).toNat = acc.toNat + 256 * (decide (sbcRaw m acc c < 0)).toNat := by
  have hm := m.isLt
  have hacc := acc.isLt
  have hborrow : (c.toNat : Int) = 1 - ((!c).toNat : Int) := by cases c <;> rfl
  have hraw : sbcRaw m acc c = acc.toNat - (!c).toNat - m.toNat := by rw [sbcRaw, hborrow]; omega
  have hc := (!c).toNat_le
  have hres : (sbcResult m acc c).toNat = (sbcRaw m acc c % 256).toNat := BitVec.toNat_ofInt _
  rw [hres, hraw]
  by_cases hneg : (acc.toNat : Int) - (!c).toNat - m.toNat < 0
  · rw [decide_eq_true hneg, Bool.toNat_true]
    omega
  · rw [decide_eq_false hneg, Bool.toNat_false]
    omega

/-- Settles O25: the result byte and the carry are the exact sum, and the four flags are written in turn. -/
theorem adcAddsWithCarry : Obligations.AdcAddsWithCarry := by
  intro i s h
  refine valueResult_of_effect (valueEffect_of_mnemonic h rfl) fun m u hu => ⟨rfl, ?_⟩
  obtain ⟨hc, hrest⟩ := arithmetic_flags (decide (adcSum m s.a (getFlag .c s.p) > 255)) m
    (adcResult m s.a (getFlag .c s.p)) s.p
  rw [← hu.a, ← hu.p] at *
  exact ⟨(congrArg (fun b : Bool => _ + 256 * b.toNat) hc).trans (adcResult_exact m u.a _), hrest⟩

/-- Settles O26: the result byte and the borrow are the exact difference, and the four flags are written in turn. -/
theorem sbcSubtractsWithBorrow : Obligations.SbcSubtractsWithBorrow := by
  intro i s h
  refine valueResult_of_effect (valueEffect_of_mnemonic h rfl) fun m u hu => ⟨rfl, ?_⟩
  obtain ⟨hc, hrest⟩ := arithmetic_flags (!decide (sbcRaw m s.a (getFlag .c s.p) < 0)) m
    (sbcResult m s.a (getFlag .c s.p)) s.p
  rw [← hu.a, ← hu.p] at *
  refine ⟨(sbcResult_exact m u.a _).trans ?_, hrest⟩
  exact congrArg (fun b : Bool => u.a.toNat + 256 * b.toNat) (by rw [← Bool.not_not (decide _), ← hc]; rfl)

/-! ## Logic and compares -/

/-- Settles O27: the bits of a bitwise operation are the operation on the bits. -/
theorem logicCombinesBitwise : Obligations.LogicCombinesBitwise := by
  intro i s op h
  simp only [List.mem_cons, List.not_mem_nil, or_false, Prod.mk.injEq] at h
  rcases h with ⟨h, rfl⟩ | ⟨h, rfl⟩ | ⟨h, rfl⟩
  all_goals refine valueResult_of_effect (valueEffect_of_mnemonic h rfl) fun m u hu => ⟨rfl, fun k _ => ?_, ?_⟩
  case' inl.refine_1 => rw [← hu.a]; exact BitVec.getLsbD_and
  case' inr.inl.refine_1 => rw [← hu.a]; exact BitVec.getLsbD_or
  case' inr.inr.refine_1 => rw [← hu.a]; exact BitVec.getLsbD_xor
  all_goals exact hu.p ▸ znFrom_setZN _ u.p

/-- No bit is set in both of two bytes exactly when their conjunction is zero. -/
theorem and_eq_zero_iff_getLsbD (a m : Byte) :
    a &&& m = 0 ↔ ∀ k < 8, ¬ (a.getLsbD k = true ∧ m.getLsbD k = true) := by
  constructor
  · intro h k hk hboth
    have hbit : (a &&& m).getLsbD k = true := by rw [BitVec.getLsbD_and, hboth.1, hboth.2]; rfl
    rw [h] at hbit
    simp at hbit
  · intro h
    refine status_ext fun k hk => ?_
    rw [BitVec.getLsbD_and]
    simpa using h k hk

/-- Settles O28: three flag writes, of Z, N and V, and no other. -/
theorem bitTestsWithoutWritingA : Obligations.BitTestsWithoutWritingA := by
  intro i s h
  refine valueResult_of_effect (valueEffect_of_mnemonic h rfl) fun m u hu => ⟨rfl, ?_⟩
  have hp : (bitTest m u).p = bitFlags m s.a s.p := by rw [← hu.a, ← hu.p]; rfl
  rw [hp]
  refine ⟨?zero, by simp [bitFlags], by simp [bitFlags], ?others⟩
  case zero =>
    rw [← and_eq_zero_iff_getLsbD]
    simp [bitFlags]
  case others =>
    exact (((SameBitsBut.refl _ s.p).putFlag (f := .z) (by decide) _).putFlag (f := .n) (by decide) _).putFlag (f := .v)
      (by decide) _

/-- What a compare of a register with the operand leaves in the status byte (44_compares R170). -/
theorem compareFlags_spec (reg m p : Byte) :
    let q := compareFlags reg m p
    (getFlag .c q = true ↔ m.toNat ≤ reg.toNat) ∧ (getFlag .z q = true ↔ reg = m) ∧
      (getFlag .n q = true ↔ reg.toNat < m.toNat) ∧ getFlag .n q = !getFlag .c q ∧ SameBitsBut [.c, .z, .n] p q := by
  refine ⟨by simp [compareFlags], by simp [compareFlags], by simp [compareFlags], ?inverse, ?others⟩
  case inverse =>
    simp [compareFlags, ← decide_not]
  case others =>
    exact (((SameBitsBut.refl _ p).putFlag (f := .c) (by decide) _).putFlag (f := .z) (by decide) _).putFlag (f := .n)
      (by decide) _

/-- Settles O29: each compare writes the flags of its register and the operand. -/
theorem comparesSetCarryZeroNegative : Obligations.ComparesSetCarryZeroNegative := by
  intro i s reg h
  simp only [List.mem_cons, List.not_mem_nil, or_false, Prod.mk.injEq] at h
  rcases h with ⟨h, rfl⟩ | ⟨h, rfl⟩ | ⟨h, rfl⟩
  all_goals
    refine valueResult_of_effect (valueEffect_of_mnemonic h rfl) fun m u hu => ⟨rfl, ?_⟩
  · exact hu.a ▸ hu.p ▸ compareFlags_spec u.a m u.p
  · exact hu.x ▸ hu.p ▸ compareFlags_spec u.x m u.p
  · exact hu.y ▸ hu.p ▸ compareFlags_spec u.y m u.p

end Sys2Proof.Machine
end

section
/-!
PROOFS. The statements of 40_load_store, 43_shifts and 45_incdec about the mnemonics that write a place.
-/

namespace Sys2Proof.Machine

/-! ## The shapes of a store and of a read-modify-write instruction -/

theorem OnlyPorts.sound {s u : State} (h : OnlyPorts s u) (hs : Sound s) : Sound u := sound_of_mem_eq h.mem hs

/-- A store writes its register at the effective address, and nothing else (40_load_store R133 to R135). -/
theorem storeResult_of_register {i : Instr} {v : State → Byte} (hv : storedRegister i.mnemonic = some v) {s : State}
    (hs : Sound s) (hreg : ∀ u, OnlyPorts s u → v u = v s) : StoreResult i s (v s) := by
  obtain ⟨place, hop, hexec⟩ := exec_store hv
  have hports := effectiveAddress_onlyPorts place s
  obtain ⟨hdone, hrefused⟩ :=
    memWrite_writesAt (hports.sound hs) (effectiveAddress place s).1 (v (effectiveAddress place s).2)
  rw [hreg _ hports] at hdone hrefused
  refine ⟨place, _, _, hop, rfl, hports, ?_⟩
  rw [hexec, storePlace_eq, hreg _ hports]
  exact ⟨hdone, hrefused⟩

/-- A completed write leaves the status byte as it is. -/
theorem memWrite_p {ea : Word} {v : Byte} {s t : State} (h : memWrite ea v s = .next t) : t.p = s.p := by
  rw [memWrite_frame h]

/-- A memory form that modifies reads its effective address once, writes the result there once, and then its flags
(43_shifts R161, 45_incdec R180). -/
theorem modifyResult_of_effect {i : Instr} {res flags : Byte → Byte → Byte}
    (hm : modifyEffect i.mnemonic = some (res, flags)) (ha : i.mode ≠ .acc) {s : State} (hs : Sound s)
    {res' : Byte → Byte} {F : Byte → Byte → Prop} (hres : ∀ old, res s.p old = res' old)
    (hflags : ∀ old, F old (flags s.p old)) : ModifyResult i s res' F := by
  obtain ⟨place, hop, hexec⟩ := exec_modify hm ha
  have hports := readPlace_onlyPorts place s
  set ea := (effectiveAddress place s).1
  set old := (readPlace place s).1
  set w := (readPlace place s).2
  have he : exec i s = onNext (memWrite ea (res' old) w) fun t => t.setP (flags t.p old) := by
    rw [hexec, modifyPlace_eq, ← hres, ← hports.p]
  obtain ⟨hdone, hrefused⟩ := memWrite_writesAt (hports.sound hs) ea (res' old)
  refine ⟨place, ea, _, old, w, hop, rfl, rfl, hports, fun hmay => ?_, fun hdma => ?_⟩
  · obtain ⟨t, ht, hwrites⟩ := hdone hmay
    have hp : t.p = w.p := memWrite_p ht
    have hback : { t.setP (flags t.p old) with p := w.p } = t := by rw [← hp]; rfl
    refine ⟨t.setP (flags t.p old), by rw [he, ht]; rfl, hback.symm ▸ hwrites, ?_⟩
    rw [State.setP_p, hp.trans hports.p]
    exact hflags old
  · rw [he, hrefused hdma]
    rfl

/-- Settles O24: a store's register is one that computing the effective address leaves alone. -/
theorem storesWriteOneByte : Obligations.StoresWriteOneByte := by
  intro i s hs
  refine ⟨fun h => storeResult_of_register (v := State.a) (by rw [h]; rfl) hs fun _ hu => hu.a,
    fun h => storeResult_of_register (v := State.x) (by rw [h]; rfl) hs fun _ hu => hu.x,
    fun h => storeResult_of_register (v := State.y) (by rw [h]; rfl) hs fun _ hu => hu.y⟩

/-! ## The bytes of a shift -/

theorem aslResult_eq (old : Byte) : aslResult old = old <<< 1 := by
  apply BitVec.eq_of_toNat_eq
  simp [aslResult, Nat.shiftLeft_eq]

theorem lsrResult_eq (old : Byte) : lsrResult old = old >>> 1 := by
  have := old.isLt
  apply BitVec.eq_of_toNat_eq
  simp [lsrResult, Nat.shiftRight_eq_div_pow]
  omega

/-- The carry as a byte. -/
theorem toNat_carry (c : Bool) : (BitVec.setWidth 8 (BitVec.ofBool c)).toNat = c.toNat := by cases c <;> rfl

/-- A rotation left puts the old carry in the bit the shift left clear (43_shifts R166, R167). -/
theorem rolResult_eq (c : Bool) (old : Byte) :
    rolResult c old = old <<< 1 ||| BitVec.setWidth 8 (BitVec.ofBool c) := by
  rw [← BitVec.add_eq_or_of_and_eq_zero]
  · apply BitVec.eq_of_toNat_eq
    simp only [rolResult, BitVec.toNat_ofNat, BitVec.toNat_add, toNat_carry, BitVec.toNat_shiftLeft, Nat.shiftLeft_eq]
  · refine status_ext fun k hk => ?_
    rcases Nat.eq_zero_or_pos k with rfl | hpos
    · simp
    · simp [BitVec.getLsbD_ofBool, hpos.ne']

/-- A rotation right puts the old carry in the bit the shift right clear (43_shifts R168, R169). -/
theorem rorResult_eq (c : Bool) (old : Byte) :
    rorResult c old = old >>> 1 ||| BitVec.setWidth 8 (BitVec.ofBool c) <<< 7 := by
  have hold := old.isLt
  rw [← BitVec.add_eq_or_of_and_eq_zero]
  · apply BitVec.eq_of_toNat_eq
    simp only [rorResult, BitVec.toNat_ofNat, BitVec.toNat_add, toNat_carry, BitVec.toNat_shiftLeft,
      BitVec.toNat_ushiftRight, Nat.shiftLeft_eq, Nat.shiftRight_eq_div_pow]
    omega
  · refine status_ext fun k hk => ?_
    by_cases h7 : k = 7
    · subst h7
      simp
    · simp [show k < 7 by omega]

theorem getLsbD_rolResult (c : Bool) (old : Byte) {k : Nat} (hk : k < 8) :
    (rolResult c old).getLsbD k = if k = 0 then c else old.getLsbD (k - 1) := by
  rw [rolResult_eq]
  split_ifs with h
  · simp [h]
  · simp only [BitVec.getLsbD_or, BitVec.getLsbD_shiftLeft, BitVec.getLsbD_setWidth, BitVec.getLsbD_ofBool]
    simp [h, hk]

theorem getLsbD_rorResult (c : Bool) (old : Byte) {k : Nat} (hk : k < 8) :
    (rorResult c old).getLsbD k = if k = 7 then c else old.getLsbD (k + 1) := by
  rw [rorResult_eq]
  split_ifs with h
  · simp [h]
  · simp [show k < 7 by omega, Nat.add_comm 1 k]

/-! ## The flags of a shift -/

/-- The two flags that ASL and LSR write (43_shifts R160). -/
theorem shift_flags_z (c : Bool) (res p : Byte) :
    let q := setZ res (putFlag .c c p)
    getFlag .c q = c ∧ getFlag .z q = decide (res = 0) ∧ SameBitsBut [.c, .z] p q :=
  ⟨by simp, by simp [beq_eq_decide],
    ((SameBitsBut.refl _ p).putFlag (f := .c) (by decide) c).putFlag (f := .z) (by decide) _⟩

/-- The two flags that ROL and ROR write (43_shifts R160). -/
theorem shift_flags_n (c : Bool) (res p : Byte) :
    let q := setN res (putFlag .c c p)
    getFlag .c q = c ∧ getFlag .n q = res.getLsbD 7 ∧ SameBitsBut [.c, .n] p q :=
  ⟨by simp, by simp [msb_eq_getLsbD_seven],
    ((SameBitsBut.refl _ p).putFlag (f := .c) (by decide) c).putFlag (f := .n) (by decide) _⟩

/-- Settles O30: each accumulator form is a shift of A with its two flags. -/
theorem accumulatorShiftsWriteTwoFlags : Obligations.AccumulatorShiftsWriteTwoFlags := by
  intro s
  exact ⟨⟨_, rfl, rfl, aslResult_eq s.a, shift_flags_z _ _ s.p⟩,
    ⟨_, rfl, rfl, lsrResult_eq s.a, shift_flags_z _ _ s.p⟩,
    ⟨_, rfl, rfl, fun k hk => getLsbD_rolResult _ s.a hk, shift_flags_n _ _ s.p⟩,
    ⟨_, rfl, rfl, fun k hk => getLsbD_rorResult _ s.a hk, shift_flags_n _ _ s.p⟩⟩

/-- Settles O31: each memory form is the shift of the accumulator form on the byte read. -/
theorem memoryShiftsReadAndWriteOnce : Obligations.MemoryShiftsReadAndWriteOnce := by
  intro i s hs ha
  refine ⟨fun h => ?asl, fun h => ?lsr, fun h => ?rol, fun h => ?ror⟩
  case asl =>
    refine modifyResult_of_effect (by rw [h]; rfl) ha hs aslResult_eq fun old => ?_
    exact aslResult_eq old ▸ shift_flags_z _ _ s.p
  case lsr =>
    refine modifyResult_of_effect (by rw [h]; rfl) ha hs lsrResult_eq fun old => ?_
    exact lsrResult_eq old ▸ shift_flags_z _ _ s.p
  case rol =>
    refine modifyResult_of_effect (by rw [h]; rfl) ha hs (rolResult_eq _) fun old => ?_
    obtain ⟨hc, hn, hbits⟩ := shift_flags_n (old.getLsbD 7) (rolResult (getFlag .c s.p) old) s.p
    exact ⟨hc, hn.trans (getLsbD_rolResult _ old (by decide)), hbits⟩
  case ror =>
    refine modifyResult_of_effect (by rw [h]; rfl) ha hs (rorResult_eq _) fun old => ?_
    obtain ⟨hc, hn, hbits⟩ := shift_flags_n (old.getLsbD 0) (rorResult (getFlag .c s.p) old) s.p
    exact ⟨hc, hn.trans (getLsbD_rorResult _ old (by decide)), hbits⟩

/-! ## Stepping a byte by one -/

theorem toNat_add_one (v : Byte) : (v + 1).toNat = (v.toNat + 1) % 256 := BitVec.toNat_add v 1

theorem add_one_eq_ofNat (v : Byte) : v + 1 = BitVec.ofNat 8 (v.toNat + 1) := BitVec.eq_of_toNat_eq (toNat_add_one v)

theorem sub_one_eq_ofNat (v : Byte) : v - 1 = BitVec.ofNat 8 (v.toNat + 255) :=
  BitVec.eq_of_toNat_eq (toNat_sp_sub_one v)

/-- INC and DEC have no accumulator mode (30_encoding R110). -/
theorem mode_ne_acc_of_inc_or_dec {i : Instr} (h : i.mnemonic = .inc ∨ i.mnemonic = .dec) : i.mode ≠ .acc := by
  intro hacc
  have hadmits := Instr.admits_mode hacc
  rcases h with h | h
  all_goals
    rw [h] at hadmits
    exact absurd hadmits (by decide)

/-- Settles O32: the result is the byte stepped by one, and the flags are `SetZN` of it. -/
theorem incAndDecModifyOneByte : Obligations.IncAndDecModifyOneByte := by
  intro i s hs
  refine ⟨fun h => ?inc, fun h => ?dec⟩
  case inc =>
    have ha := mode_ne_acc_of_inc_or_dec (.inl h)
    refine modifyResult_of_effect (by rw [h]; rfl) ha hs add_one_eq_ofNat fun old => ?_
    exact add_one_eq_ofNat old ▸ znFrom_setZN _ s.p
  case dec =>
    have ha := mode_ne_acc_of_inc_or_dec (.inr h)
    refine modifyResult_of_effect (by rw [h]; rfl) ha hs sub_one_eq_ofNat fun old => ?_
    exact sub_one_eq_ofNat old ▸ znFrom_setZN _ s.p

/-- Settles O33: each writes the register stepped by one, and `SetZN` of it. -/
theorem indexRegistersStepByOne : Obligations.IndexRegistersStepByOne := by
  intro s
  exact ⟨⟨_, rfl, rfl, toNat_add_one s.x, znFrom_setZN _ s.p⟩, ⟨_, rfl, rfl, toNat_add_one s.y, znFrom_setZN _ s.p⟩,
    ⟨_, rfl, rfl, toNat_sp_sub_one s.x, znFrom_setZN _ s.p⟩, ⟨_, rfl, rfl, toNat_sp_sub_one s.y, znFrom_setZN _ s.p⟩⟩

end Sys2Proof.Machine
end

section
/-!
PROOFS. The statements of 46_transfers, 48_flag_ops and the branches of 49_control_transfer.
-/

namespace Sys2Proof.Machine

/-- Settles O34: a transfer is one register write, with `SetZN` for all but TXS. -/
theorem transfersCopyOneRegister : Obligations.TransfersCopyOneRegister :=
  fun s => ⟨⟨_, rfl, znFrom_setZN s.a s.p⟩, ⟨_, rfl, znFrom_setZN s.x s.p⟩, ⟨_, rfl, znFrom_setZN s.a s.p⟩,
    ⟨_, rfl, znFrom_setZN s.y s.p⟩, rfl⟩

/-- One flag written is that flag with its value, and no other bit (10_state R29). -/
theorem putFlag_writes_one (f : Flag) (b : Bool) (p : Byte) :
    getFlag f (putFlag f b p) = b ∧ SameBitsBut [f] p (putFlag f b p) :=
  ⟨by simp, (SameBitsBut.refl [f] p).putFlag (List.mem_singleton.mpr rfl) b⟩

/-- Settles O37: each of the four is one flag write. -/
theorem flagInstructionsWriteOneBit : Obligations.FlagInstructionsWriteOneBit := by
  intro i s f b h
  simp only [List.mem_cons, List.not_mem_nil, or_false, Prod.mk.injEq] at h
  rcases h with ⟨rfl, rfl, rfl⟩ | ⟨rfl, rfl, rfl⟩ | ⟨rfl, rfl, rfl⟩ | ⟨rfl, rfl, rfl⟩
  all_goals exact ⟨_, rfl, putFlag_writes_one _ _ s.p⟩

/-! ## Branches -/

/-- A branch has a displacement byte, and is one `branchIf` (49_control_transfer R220). -/
theorem exec_branch {i : Instr} {test : Byte → Bool} (h : ruleOf i.mnemonic = .branch test) :
    ∃ d, i.operand = .relative d ∧ ∀ s, exec i s = branchIf (test s.p) d s := by
  cases i <;> cases h <;> exact ⟨_, rfl, fun _ => rfl⟩

/-- Adding a displacement moves by the byte read as signed, mod 65536 (30_encoding R108). -/
theorem toNat_add_displacement (pc : Word) (d : Byte) :
    ((pc + d.signExtend 16).toNat : Int) =
      ((pc.toNat : Int) + (if d.toNat < 128 then (d.toNat : Int) else d.toNat - 256)) % 65536 := by
  have hd := d.isLt
  have hwide : (BitVec.setWidth 16 d).toNat = d.toNat := by
    rw [BitVec.toNat_setWidth]
    omega
  rw [BitVec.toNat_add, BitVec.toNat_signExtend, hwide, BitVec.msb_eq_decide]
  by_cases h : d.toNat < 128
  · rw [if_pos h, if_neg (by simp; omega)]
    omega
  · rw [if_neg h, if_pos (by simp; omega)]
    omega

/-- The program counter a branch leaves (49_control_transfer R220). -/
def branchTarget (taken : Bool) (d : Byte) (pc : Word) : Word := if taken then pc + d.signExtend 16 else pc

theorem branchIf_eq (taken : Bool) (d : Byte) (s : State) :
    branchIf taken d s = .next { s with pc := branchTarget taken d s.pc } := by cases taken <;> rfl

/-- Each branch tests one flag for one value (49_control_transfer R221 to R227, D29). -/
theorem branch_test {mn : Mnemonic} {f : Flag} {b : Bool}
    (h : (mn, f, b) ∈ [(Mnemonic.beq, Flag.z, true), (.bne, .z, false), (.bmi, .n, true), (.bpl, .n, false),
      (.bcs, .c, true), (.bcc, .c, false), (.bvc, .v, false)]) :
    ∃ test, ruleOf mn = .branch test ∧ ∀ p, test p = decide (getFlag f p = b) := by
  simp only [List.mem_cons, List.not_mem_nil, or_false, Prod.mk.injEq] at h
  rcases h with ⟨rfl, rfl, rfl⟩ | ⟨rfl, rfl, rfl⟩ | ⟨rfl, rfl, rfl⟩ | ⟨rfl, rfl, rfl⟩ | ⟨rfl, rfl, rfl⟩ |
    ⟨rfl, rfl, rfl⟩ | ⟨rfl, rfl, rfl⟩
  all_goals exact ⟨_, rfl, by simp⟩

/-- Settles O38: a branch taken adds its displacement, one not taken leaves PC. -/
theorem branchesTestOneFlag : Obligations.BranchesTestOneFlag := by
  intro i s f b h
  obtain ⟨test, hrule, htest⟩ := branch_test h
  obtain ⟨d, hop, hexec⟩ := exec_branch hrule
  refine ⟨d, _, hop, (hexec s).trans (branchIf_eq _ d s), ?_⟩
  rw [htest, branchTarget]
  simp only [decide_eq_true_eq]
  split_ifs with htaken
  · rw [toNat_add_displacement, if_pos ‹_›]
  · rw [toNat_add_displacement, if_neg ‹_›]
  · rfl

end Sys2Proof.Machine
end

section
/-!
PROOFS. The statements of 10_state and 47_stack_ops: pushes and pops.
-/

namespace Sys2Proof.Machine

/-! ## One push, one pop -/

/-- The cells after a push: the byte where SP was (10_state R31). -/
theorem push_read {s t : State} (hs : Sound s) {v : Byte} (h : push v s = .next t) (k : Nat) :
    t.mem.read k = if k = 0x100 + s.sp.toNat then v else s.mem.read k := by
  rw [push_eq] at h
  cases h
  exact Memory.read_write hs.1 _ k v

/-- Settles O7: `push_eq` says what a push leaves, and SP less one wraps in its page. -/
theorem pushWritesThenDecrements : Obligations.PushWritesThenDecrements := fun v s hs =>
  ⟨_, push_eq v s, rfl, toNat_sp_sub_one s.sp, push_read hs (push_eq v s)⟩

/-- Settles O35: PHA is the push of A, and PHP that of P with its reserved bits set in P first. -/
theorem phaAndPhpPushOneByte : Obligations.PhaAndPhpPushOneByte := by
  intro s hs
  have hforced : Sound (s.setP (forceReserved s.p)) := hs
  exact ⟨⟨_, push_eq s.a s, rfl, toNat_sp_sub_one s.sp, push_read hs (push_eq s.a s)⟩,
    ⟨_, push_eq _ _, rfl, toNat_sp_sub_one s.sp, fun k hk => getLsbD_forceReserved hk s.p,
      push_read hforced (push_eq _ _)⟩⟩

theorem exec_pla (s : State) :
    exec .pla s = .next (((pop s).2.setA (pop s).1).setP (setZN (pop s).1 (pop s).2.p)) := rfl

theorem exec_plp (s : State) : exec .plp s = .next ((pop s).2.setP (pop s).1) := rfl

/-- Settles O36: each is the pop of `pop_eq`, and what it does with the byte. -/
theorem plaAndPlpPullOneByte : Obligations.PlaAndPlpPullOneByte := by
  intro s
  refine ⟨s.sp + 1, toNat_add_one s.sp, ⟨_, ?_, znFrom_setZN _ s.p⟩, ?_⟩
  · rw [exec_pla, pop_eq]
    rfl
  · rw [exec_plp, pop_eq]
    rfl

/-! ## Many pushes, as many pops -/

theorem pushAll_cons (v : Byte) (rest : List Byte) (s : State) :
    pushAll (v :: rest) s =
      pushAll rest ((s.setMem (s.mem.write (0x100 + s.sp.toNat) v)).setSp (s.sp - 1)) := by
  rw [pushAll, push_eq, andThen_next]

/-- Pushing a list always completes (10_state R31). -/
theorem pushAll_completes (bytes : List Byte) (s : State) : ∃ t, pushAll bytes s = .next t := by
  induction bytes generalizing s with
  | nil => exact ⟨s, rfl⟩
  | cons v rest ih =>
    rw [pushAll_cons]
    exact ih _

/-- Pushing a list leaves every cell alone but those from SP down, wrapping in the stack page. -/
theorem pushAll_read_other {bytes : List Byte} {s t : State} (h : pushAll bytes s = .next t) {k : Nat}
    (hk : ∀ j < bytes.length, k ≠ 0x100 + (s.sp.toNat + 256 - j) % 256) (hlen : bytes.length ≤ 256) :
    t.mem.read k = s.mem.read k := by
  induction bytes generalizing s with
  | nil =>
    cases h
    rfl
  | cons v rest ih =>
    have hsp := s.sp.isLt
    rw [List.length_cons] at hk hlen
    have hfirst := hk 0 (by omega)
    rw [pushAll_cons] at h
    rw [ih h ?_ (by omega)]
    · exact Memory.read_write_other (by omega) v s.mem
    · intro j hj
      have hnext := hk (j + 1) (by omega)
      rw [State.setSp_sp, toNat_sp_sub_one]
      omega

theorem popMany_succ (n : Nat) (s : State) :
    popMany (n + 1) s = ((pop s).1 :: (popMany n (pop s).2).1, (popMany n (pop s).2).2) := rfl

/-- Popping one byte more is popping it last. -/
theorem popMany_succ_last (n : Nat) (s : State) :
    popMany (n + 1) s = ((popMany n s).1 ++ [(pop (popMany n s).2).1], (pop (popMany n s).2).2) := by
  induction n generalizing s with
  | zero => rfl
  | succ n ih =>
    rw [popMany_succ, ih, popMany_succ n s]
    rfl

/-- The pops after the pushes of a list of at most 256 bytes: the bytes reversed, and SP as before the pushes (10_state
R33). The last pop takes the first byte pushed, whose cell the other 255 do not reach. -/
theorem popMany_of_pushAll {bytes : List Byte} {s t : State} (hs : Sound s) (hlen : bytes.length ≤ 256)
    (h : pushAll bytes s = .next t) : popMany bytes.length t = (bytes.reverse, t.setSp s.sp) := by
  induction bytes generalizing s with
  | nil =>
    cases h
    rfl
  | cons v rest ih =>
    rw [List.length_cons] at hlen ⊢
    have hsp := s.sp.isLt
    rw [pushAll_cons] at h
    have hsound : Sound ((s.setMem (s.mem.write (0x100 + s.sp.toNat) v)).setSp (s.sp - 1)) :=
      (push_ramOnly (push_eq v s)).sound hs
    have hcell : t.mem.read (0x100 + s.sp.toNat) = v := by
      rw [pushAll_read_other h ?_ (by omega)]
      · exact Memory.read_write_same _ v hs.1
      · intro j hj
        rw [State.setSp_sp, toNat_sp_sub_one]
        omega
    rw [popMany_succ_last, ih hsound (by omega) h, State.setSp_sp, pop_of_sp_add_one (BitVec.sub_add_cancel s.sp 1),
      State.setSp_mem, hcell, List.reverse_cons]
    rfl

/-- Settles O9: the pops give the bytes reversed and put SP back. -/
theorem popsReturnThePushesReversed : Obligations.PopsReturnThePushesReversed := by
  intro bytes s hs hlen
  obtain ⟨t, ht⟩ := pushAll_completes bytes s
  exact ⟨t, _, ht, popMany_of_pushAll hs hlen ht, rfl⟩

end Sys2Proof.Machine
end

section
/-!
PROOFS. The statements of 49_control_transfer and 60_exceptions: call, returns, BRK and NMI.
-/

namespace Sys2Proof.Machine

/-! ## Call and return -/

theorem exec_jsr (a : Word) (s : State) : exec (.jsr a) s = onNext (pushAddress (s.pc - 1) s) fun t => t.setPc a := rfl

theorem exec_rts (s : State) : exec .rts s = .next ((popAddress s).2.setPc (popAddress s).1) := rfl

/-- RTI is the return of `returnFromInterrupt_eq` (49_control_transfer R233). -/
theorem exec_rti (s : State) :
    exec .rti s = .next
      { s with
        sp := s.sp + 3
        p := s.mem.read (0x100 + (s.sp + 1).toNat)
        pc := wordOf (s.mem.read (0x100 + (s.sp + 2).toNat)) (s.mem.read (0x100 + (s.sp + 3).toNat)) + 1 } :=
  congrArg Host.Outcome.next (returnFromInterrupt_eq s)

theorem toNat_pc_sub_one (pc : Word) : (pc - 1).toNat = (pc.toNat + 65535) % 65536 := by
  rw [BitVec.toNat_sub, Nat.add_comm]
  rfl

/-- Settles O40: the word pushed is PC less one, in the cells `pushAddress_read` names. -/
theorem jsrPushesTheReturnAddressLessOne : Obligations.JsrPushesTheReturnAddressLessOne := by
  intro a s hs
  have hpush := pushAddress_eq (s.pc - 1) s
  have hread := pushAddress_read hs hpush
  refine ⟨_, s.pc - 1, toNat_pc_sub_one s.pc, by rw [exec_jsr, hpush]; rfl, rfl, toNat_sp_sub_two s.sp, ?_⟩
  rw [← toNat_sp_sub_one]
  exact hread

theorem toNat_add_two (v : Byte) : (v + 2).toNat = (v.toNat + 2) % 256 := BitVec.toNat_add v 2

theorem toNat_add_three (v : Byte) : (v + 3).toNat = (v.toNat + 3) % 256 := BitVec.toNat_add v 3

/-- The word {hi, lo} and one more, mod 65536. -/
theorem toNat_wordOf_add_one (hi lo : Byte) : (wordOf hi lo + 1).toNat = (hi.toNat * 256 + lo.toNat + 1) % 65536 := by
  rw [BitVec.toNat_add, toNat_wordOf]
  rfl

/-- Settles O41: a return is the two pops of `popAddress_eq`. -/
theorem rtsPopsAndAddsOne : Obligations.RtsPopsAndAddsOne := by
  intro s
  refine ⟨s.sp + 2, _, toNat_add_two s.sp, by rw [exec_rts, popAddress_eq]; rfl, ?_⟩
  rw [toNat_wordOf_add_one, toNat_add_one, toNat_add_two]

theorem popAddress_setPc (w : Word) (s : State) :
    popAddress (s.setPc w) = ((popAddress s).1, (popAddress s).2.setPc w) := by
  rw [popAddress_eq, popAddress_eq]
  rfl

/-- Settles O42: the two pops after the two pushes yield the word pushed, one is added back, and SP is as before. -/
theorem rtsUndoesJsr : Obligations.RtsUndoesJsr := by
  intro a s hs
  obtain ⟨t, ht, hframe, -, -, -, hpop⟩ := returnAddressLayoutOnTheStack (s.pc - 1) s hs
  have hcall : exec (.jsr a) s = .next (t.setPc a) := by rw [exec_jsr, ht, onNext_next]
  refine ⟨_, _, hcall, exec_rts _, ?_⟩
  rw [popAddress_setPc, hpop, BitVec.sub_add_cancel, hframe]
  rfl

/-- Settles O43: a return from an interrupt is the three pops of `returnFromInterrupt_eq`. -/
theorem rtiRestoresStatusAndPc : Obligations.RtiRestoresStatusAndPc := by
  intro s
  rw [← toNat_add_one, ← toNat_add_two, ← toNat_add_three]
  exact ⟨s.sp + 3, _, rfl, exec_rti s, toNat_wordOf_add_one _ _⟩

/-! ## Interrupts -/

/-- Settles O44: BRK is the interrupt sequence of 0xFFFE with the reserved bits forced. -/
theorem brkTakesTheInterrupt : Obligations.BrkTakesTheInterrupt := fun _ hs =>
  interruptSequence_takesInterrupt (vector := irqVector) (by decide) (by decide) true hs

/-- Settles O51: an NMI on a Running engine is the interrupt sequence of 0xFFFA. -/
theorem nmiIsTakenUnmasked : Obligations.NmiIsTakenUnmasked := by
  intro s
  refine ⟨fun hs hf => ?_, fun hf => if_pos hf⟩
  have hserve : serve .nmi s = interruptSequence nmiVector false s := if_neg (by simp [hf])
  rw [hserve]
  exact interruptSequence_takesInterrupt (by decide) (by decide) false hs

/-- A pop after a push puts back one of the places pushed, mod 256. -/
theorem sp_sub_add {a b c : Byte} (h : b + c = a) (sp : Byte) : sp - a + b = sp - c := by
  rw [BitVec.eq_sub_iff_add_eq, BitVec.add_assoc, h, BitVec.sub_add_cancel]

/-- Settles O45: the three pops take the three cells of the entry, in turn. -/
theorem rtiUndoesTheInterruptEntry : Obligations.RtiUndoesTheInterruptEntry := by
  intro vector force s t h
  obtain ⟨hframe, -, hlo, hhi, hst, -⟩ := h
  have hsp : t.sp = s.sp - 3 := by rw [hframe]
  have h1 : t.sp + 1 = s.sp - 2 := hsp ▸ sp_sub_add (by decide) s.sp
  have h2 : t.sp + 2 = s.sp - 1 := hsp ▸ sp_sub_add (by decide) s.sp
  have h3 : t.sp + 3 = s.sp := hsp ▸ BitVec.sub_add_cancel s.sp 3
  rw [exec_rti, h1, h2, h3, hlo, hhi, hst, wordOf_hiByte_loByte, BitVec.sub_add_cancel, hframe]

end Sys2Proof.Machine
end

section
/-!
PROOFS. The statements of 10_state and 70_reset_and_hazards: reset, the boot sequence and the boot ports.
-/

namespace Sys2Proof.Machine

/-! ## Reset and boot -/

/-- Settles O54: the fields of `State.reset`, and what a reset request writes. -/
theorem soundAtReset : Obligations.SoundAtReset :=
  ⟨⟨rfl, rfl⟩, ⟨rfl, rfl, nofun⟩, rfl, fun _ _ => ⟨_, rfl, rfl⟩⟩

/-- In front of cells with other keys, a key reads the cells they are joined to. -/
theorem Memory.read_append_left {n : Memory} {k : Nat} (hn : ∀ c ∈ n, c.1 ≠ k) :
    ∀ m : Memory, Memory.read (m ++ n) k = Memory.read m k
  | [] => by
    have hright := Memory.read_append_right hn []
    rwa [List.append_nil] at hright
  | (j, b) :: rest => by
    rw [List.cons_append, Memory.read_cons, Memory.read_cons, Memory.read_append_left hn rest]

theorem Memory.read_ramPart {k : Nat} (hk : k < 0x800) (m : Memory) : m.ramPart.read k = m.read k :=
  Memory.read_filter (fun _ => decide_eq_true hk) m

/-- The loader keeps RAM (10_state R43). -/
theorem Memory.read_loadRom_ram {k : Nat} (hk : k < 0x800) (m : Memory) (image : List Byte) :
    Memory.read (m.ramPart ++ Memory.cellsFrom 0x8000 (image.take 0x8000)) k = m.read k := by
  refine (Memory.read_append_left (fun c hc => ?_) _).trans (Memory.read_ramPart hk m)
  have hkey := (Memory.mem_cellsFrom hc).1
  omega

/-- A reset puts RAM_INIT into RAM (10_state R46). -/
theorem read_ram_resetTo {v : ResetValues} (hlen : v.ram.length = 0x800) (s : State) {k : Nat} (hk : k < 0x800) :
    (resetTo v s).mem.read k = v.ram.getD k 0 := by
  have hrom : ∀ c ∈ s.mem.romPart, c.1 ≠ k := by
    intro c hc
    have hkey : 0x8000 ≤ c.1 := of_decide_eq_true (List.mem_filter.mp hc).2
    omega
  refine (Memory.read_append_left hrom _).trans ?_
  rw [Memory.read_cellsFrom, if_pos (Nat.zero_le k), List.take_of_length_le hlen.le]
  rfl

/-- The word the driver reads at the reset vector (70_reset_and_hazards R281). -/
theorem toNat_bootVector (s : State) :
    (bootVector s).toNat = (s.mem.read 0xFFFD).toNat * 256 + (s.mem.read 0xFFFC).toNat := by
  rw [bootVector, readWord_rom (by decide) (by decide), toNat_wordOf]
  rfl

/-- Before the first step `pc_load` completes (10_state R38). -/
theorem serve_pcLoad {s : State} (h : s.started = false) (w : Word) : serve (.pcLoad w) s = .next (s.setPc w) :=
  if_neg (by simp [h])

/-- Settles O52: reset opens the boot ports, and what the loader and `pc_load` write is where the next reads it. -/
theorem bootLoadsRomAndPc : Obligations.BootLoadsRomAndPc := by
  intro v image s himage hram
  refine ⟨_, _, _, rfl, serve_romLoad rfl image, serve_pcLoad rfl _, rfl, rfl, rfl, rfl, rfl, rfl, ?pc,
    fun k hk => ?ram, fun k hk => ?rom⟩
  case pc =>
    rw [State.setPc_pc, toNat_bootVector, State.setMem_mem, Memory.read_loadRom himage (by decide),
      Memory.read_loadRom himage (by decide)]
  case ram => rw [State.setPc_mem, State.setMem_mem, Memory.read_loadRom_ram hk, read_ram_resetTo hram s hk]
  case rom =>
    rw [State.setPc_mem, State.setMem_mem, Memory.read_loadRom himage (by omega), Nat.add_sub_cancel_left]

/-! ## The boot ports after the first step -/

/-- The mark of a started engine stays but for a reset (log entry 12). -/
theorem serve_keeps_started {r : Request} {s t : State} (hs : s.started = true) (h : serve r s = .next t) :
    t.started = true ∨ ∃ v, r = .reset v := by
  rcases serve_cases h with ⟨-, hstep⟩ | ⟨-, -, rfl⟩ | ⟨-, -, hentry⟩ | ⟨_, -, rfl⟩ | ⟨v, rfl, -⟩ | ⟨_, -, -, rfl⟩ |
    ⟨_, -, -, rfl⟩
  · cases hf : s.faulted with
    | true =>
      rw [engineStep_of_faulted hf] at hstep
      cases hstep
      exact .inl hs
    | false => exact .inl (engineStep_of_running hf hstep).1
  · exact .inl hs
  · obtain ⟨-, -, -, hstarted, -⟩ := interruptSequence_sameMachinery (by decide) (by decide) hentry
    exact .inl (hstarted.trans hs)
  · exact .inl hs
  · exact .inr ⟨v, rfl⟩
  · exact .inl hs
  · exact .inl hs

theorem nextRequest_started (s : State) : (nextRequest s).2.started = s.started := by rw [nextRequest_snd]

/-- Settles O53: a step sets the mark, nothing but a reset clears it, and the two ports test it. -/
theorem bootPortsCloseAtTheFirstStep : Obligations.BootPortsCloseAtTheFirstStep := by
  refine ⟨fun s t hf h => (engineStep_of_running hf h).1, fun s t hs h => ?_, fun s hs => ⟨fun w => ⟨if_pos hs, ?_⟩,
    fun image => ⟨if_pos hs, ?_⟩⟩⟩
  · exact serve_keeps_started ((nextRequest_started s).trans hs) h
  all_goals
    intro hagenda hnext
    have hmove := nextRequest_hasMove hagenda
    rw [hnext, hs] at hmove
    cases hmove

end Sys2Proof.Machine
end

section
/-!
PROOFS. The statements of 60_exceptions and 30_encoding about one step: fetch, decode, run or fault.
-/

namespace Sys2Proof.Machine

/-! ## A step that runs an instruction -/

/-- A step of a Running engine whose poll takes no IRQ fetches and runs (60_exceptions R242). -/
theorem step_of_ready {s u : State} (h : ReadyToRun s u) : step s = fetchAndRun (u.setStarted true) := by
  obtain ⟨hnext, hf, hmask⟩ := h
  have hframe := nextRequest_frame hnext
  have hrunning : u.faulted = false := (nextRequest_faulted hnext).trans hf
  have hpoll : irqTaken (u.setStarted true) = false := by
    rw [← Bool.not_eq_true, irqTaken_iff, State.setStarted_irqPending, State.setStarted_p, hframe]
    rintro ⟨hpending, hclear⟩
    exact Bool.noConfusion ((hmask hpending).symm.trans hclear)
  rw [step_of_nextRequest_step hnext]
  simp only [engineStep, hrunning, hpoll, Bool.false_eq_true, if_false]

/-- What the state served shares with the state before: all but the schedule. -/
theorem ReadyToRun.frame {s u : State} (h : ReadyToRun s u) : u = { s with agenda := u.agenda, driver := u.driver } :=
  nextRequest_frame h.1

/-- The opcode byte of a step at a byte of RAM or ROM, and the state after its fetch (30_encoding R92). -/
theorem fetch_of_ready {s u : State} (h : ReadyToRun s u) (hcell : (cellOf s.pc).isSome = true) :
    fetch (u.setStarted true) = (peek s s.pc, { u with pc := s.pc + 1, started := true }) := by
  have hframe := h.frame
  have hpc : u.pc = s.pc := by rw [hframe]
  rw [fetch_cell (by rw [State.setStarted_pc, hpc]; exact hcell), hframe]
  rfl

theorem opcodeMap_of_ready {s u : State} (h : ReadyToRun s u) : (u.setStarted true).opcodeMap = s.opcodeMap := by
  rw [h.frame]
  rfl

theorem row_of_ready {s u : State} (h : ReadyToRun s u) (hcell : (cellOf s.pc).isSome = true) :
    (u.setStarted true).opcodeMap.row (fetch (u.setStarted true)).1 = s.opcodeMap.row (peek s s.pc) := by
  rw [opcodeMap_of_ready h, fetch_of_ready h hcell]

/-- A step at a row runs it (30_encoding R93). -/
theorem step_of_row {s u : State} {mn : Mnemonic} {md : Mode} (h : ReadyToRun s u)
    (hcell : (cellOf s.pc).isSome = true) (hrow : s.opcodeMap.row (peek s s.pc) = some (mn, md)) :
    step s = runRow s.pc mn md { u with pc := s.pc + 1, started := true } := by
  have hpc : (u.setStarted true).pc = s.pc := by rw [h.frame]; rfl
  rw [step_of_ready h, fetchAndRun_row ((row_of_ready h hcell).trans hrow), hpc, fetch_of_ready h hcell]

/-- Settles O48: without a row the fetch raises the Fault, and no rule of a mnemonic writes the latch. -/
theorem illegalOpcodeSetsFault : Obligations.IllegalOpcodeSetsFault := by
  intro s u h hcell
  refine ⟨fun hillegal => ?faults, fun row hrow t ht => ?runs⟩
  case faults =>
    have hnone : s.opcodeMap.row (peek s s.pc) = none := by
      rcases hillegal with hnone | ⟨hmap, hlisted⟩
      · exact hnone
      · rw [hmap]
        exact standard_row_of_illegal _ hlisted
    have hpc : (u.setStarted true).pc = s.pc := by rw [h.frame]; rfl
    have hevents : u.events = s.events := by rw [h.frame]
    rw [step_of_ready h, fetchAndRun_no_row ((row_of_ready h hcell).trans hnone), hpc, fetch_of_ready h hcell,
      ← hevents]
    rfl
  case runs =>
    have hf : u.faulted = false := (nextRequest_faulted h.1).trans h.2.1
    rw [step_of_row h hcell hrow] at ht
    obtain ⟨v, hv, rfl⟩ := runRow_cases ht
    obtain ⟨-, hfaulted, -⟩ := runRule_keeps hv
    rw [fetchOperand_onlyFetch] at hfaulted
    exact hfaulted.trans hf

theorem runRow_brk (addr : Word) (s : State) :
    runRow addr .brk .imp s = onNext (exec .brk s) (addTrace ⟨addr, .brk, .imp, .nothing⟩) := rfl

/-- Settles O47: the soft-failure read yields 0x00, whose row is BRK, which takes no operand. -/
theorem unmappedFetchRunsBrk : Obligations.UnmappedFetchRunsBrk := by
  intro s u hs h hrow hlo hhi
  have hframe := h.frame
  have hpc : (u.setStarted true).pc = s.pc := by rw [hframe]; rfl
  have hevents : u.events = s.events := by rw [hframe]
  have hfetch : fetch (u.setStarted true) =
      (0x00, { u with pc := s.pc + 1, started := true, events := .softRead s.pc :: s.events }) := by
    rw [fetch, hpc, memRead_unmapped hlo hhi, ← hpc, ← hevents]
    rfl
  have hsound : Sound { u with pc := s.pc + 1, started := true, events := .softRead s.pc :: s.events } :=
    sound_of_mem_eq (s := s) (by rw [hframe]) hs
  obtain ⟨t, ht, hentry⟩ := brkTakesTheInterrupt _ hsound
  refine ⟨_, t, rfl, hentry, ?_⟩
  have hrow' : (u.setStarted true).opcodeMap.row (fetch (u.setStarted true)).1 = some (.brk, .imp) := by
    rw [opcodeMap_of_ready h, hfetch]
    exact hrow
  rw [step_of_ready h, fetchAndRun_row hrow', hpc, hfetch, runRow_brk, ht]
  rfl

/-! ## The operand bytes fetched are those decoded -/

/-- Fetching an operand whose bytes lie at PC, in RAM or ROM, gives that operand and PC past it (30_encoding R92). -/
theorem fetchOperand_of_bytes {o : Operand} {s : State} {rest : List Byte}
    (hbytes : o.bytes ++ rest = [peek s s.pc, peek s (s.pc + 1)])
    (hcell : ∀ k < o.bytes.length, (cellOf (s.pc + BitVec.ofNat 16 k)).isSome = true) :
    fetchOperand o.mode s = (o, s.setPc (s.pc + BitVec.ofNat 16 o.bytes.length)) := by
  have hfirst (h : 0 < o.bytes.length) : fetch s = (peek s s.pc, s.setPc (s.pc + 1)) := by
    have hpc := hcell 0 h
    rw [BitVec.add_zero] at hpc
    exact fetch_cell hpc
  have hsecond (h : 1 < o.bytes.length) :
      fetch (s.setPc (s.pc + 1)) = (peek s (s.pc + 1), s.setPc (s.pc + 1 + 1)) :=
    fetch_cell (s := s.setPc (s.pc + 1)) (hcell 1 h)
  rcases hb : o.bytes with _ | ⟨d, _ | ⟨e, _ | ⟨f, more⟩⟩⟩ <;> rw [hb] at hbytes hfirst hsecond
  · rw [fetchOperand_of_none hb, List.length_nil, BitVec.add_zero]
    rfl
  · obtain ⟨rfl, -⟩ := List.cons.inj hbytes
    have h1 := hfirst (by simp)
    rw [fetchOperand_of_one hb (by rw [h1]), h1]
    rfl
  · obtain ⟨rfl, htail⟩ := List.cons.inj hbytes
    obtain ⟨rfl, -⟩ := List.cons.inj htail
    have h1 := hfirst (by simp)
    have h2 := hsecond (by simp)
    have hword : o.bytes = [loByte (wordOf (peek s (s.pc + 1)) (peek s s.pc)),
        hiByte (wordOf (peek s (s.pc + 1)) (peek s s.pc))] := by rw [hb, loByte_wordOf, hiByte_wordOf]
    rw [fetchOperand_of_two hword (by rw [h1, h2]), h1, h2, BitVec.add_assoc]
    rfl
  · simp at hbytes

/-- Settles O46: the row of the byte at PC is that of the instruction decoded, and its operand is the one fetched. -/
theorem stepRunsTheDecodedInstruction : Obligations.StepRunsTheDecodedInstruction := by
  refine ⟨fun s u i rest h hdecode hcell => ?decoded, fun s u mn md h hcell hrow => ?row, exec_eq_runRule⟩
  case row => exact ⟨_, _, rfl, step_of_row h hcell hrow⟩
  case decoded =>
    have hframe := h.frame
    have hpc : (cellOf s.pc).isSome = true := by
      have h0 := hcell 0 (by rw [Instr.length]; omega)
      rwa [BitVec.add_zero] at h0
    obtain ⟨opc, hbytes, hrow⟩ := decodeWith_row hdecode
    obtain ⟨rfl, htail⟩ := List.cons.inj hbytes
    have hlen : i.operand.bytes.length = i.mode.operandBytes := i.operand.length_bytes
    have hpast : s.pc + 1 + BitVec.ofNat 16 i.operand.bytes.length = s.pc + BitVec.ofNat 16 i.length := by
      rw [hlen, Instr.length, BitVec.ofNat_add, ← BitVec.add_assoc]
      rfl
    have hfetch : fetchOperand i.mode { u with pc := s.pc + 1, started := true } =
        (i.operand, { u with pc := s.pc + BitVec.ofNat 16 i.length, started := true }) := by
      rw [← hpast]
      refine fetchOperand_of_bytes (o := i.operand) (rest := rest) ?_ fun k hk => ?_
      · rw [← htail, hframe, BitVec.add_assoc]
        rfl
      · have hnext := hcell (1 + k) (by rw [Instr.length]; omega)
        rwa [BitVec.ofNat_add, ← BitVec.add_assoc] at hnext
    refine ⟨_, rfl, ?_⟩
    rw [step_of_row h hpc hrow, runRow, hfetch, exec_eq_runRule]
    rfl

end Sys2Proof.Machine
end

section
/-!
PROOFS. The statements of 10_state about who writes what, and of 60_exceptions about what stops.
-/

namespace Sys2Proof.Machine

/-! ## Who writes the registers and the flags -/

/-- The mnemonics that write A in every mode (10_state R21). -/
def aWriters : List Mnemonic := [.lda, .adc, .sbc, .and, .ora, .eor, .txa, .tya, .pla]

/-- The mnemonics that write the bus in every mode. -/
def busWriters : List Mnemonic := [.sta, .stx, .sty, .inc, .dec, .pha, .php, .jsr, .brk]

theorem not_mem_aWriters {i : Instr} (h : writesA i = false) : i.mnemonic ∉ aWriters := by
  have hlist := (Bool.or_eq_false_iff.mp h).1
  simpa [aWriters] using hlist

theorem not_mem_busWriters {i : Instr} (h : writesBus i = false) : i.mnemonic ∉ busWriters := by
  have hlist := (Bool.or_eq_false_iff.mp h).1
  simpa [busWriters] using hlist

/-- From `s` to `t` only those registers, and memory, change whose lists of writers have the mnemonic (10_state R21 to
R25). -/
def RegistersBut (mn : Mnemonic) (s t : State) : Prop :=
  (mn ∉ aWriters → t.a = s.a) ∧ (mn ∉ xWriters → t.x = s.x) ∧ (mn ∉ yWriters → t.y = s.y) ∧
    (mn ∉ spWriters → t.sp = s.sp) ∧ (mn ∉ pcWriters → t.pc = s.pc) ∧ (mn ∉ busWriters → t.mem = s.mem)

/-- The flags that a mnemonic writes (10_state R29). -/
def writtenFlags (mn : Mnemonic) : List Flag := [Flag.c, .z, .i, .d, .v, .n].filter fun f => (flagWriters f).contains mn

/-- From `s` to `t` only what the mnemonic is a writer of changes in the registers, memory and, unless it writes the
reserved bits, the flags. -/
def Writes (mn : Mnemonic) (s t : State) : Prop :=
  RegistersBut mn s t ∧ (mn ∉ reservedWriters → SameBitsBut (writtenFlags mn) s.p t.p)

theorem OnlyPorts.writes {mn : Mnemonic} {s u t : State} (hu : OnlyPorts s u) (h : Writes mn u t) : Writes mn s t := by
  rw [hu] at h
  exact h

/-- An effect on a byte writes registers and flags of its mnemonic only. -/
theorem valueRule_writes {mn : Mnemonic} {f : Byte → State → State} (hf : ruleOf mn = .value f) (m : Byte)
    (u : State) : Writes mn u (f m u) := by
  cases mn <;> cases hf
  all_goals
    constructor
    · refine ⟨?_, ?_, ?_, ?_, ?_, ?_⟩ <;> first | exact fun _ => rfl | exact fun h => absurd (by decide) h
    · intro _
      repeat refine SameBitsBut.putFlag ?_ (by decide) _
      exact SameBitsBut.refl _ _

/-- What a mnemonic does alone writes registers and flags of it only. -/
theorem aloneRule_writes {mn : Mnemonic} {run : State → Host.Outcome State Fault Refusal}
    (hr : ruleOf mn = .alone run) {u t : State} (h : run u = .next t) : Writes mn u t := by
  cases mn <;> cases hr
  case' pha => rw [execPha, push_eq] at h
  case' php => rw [execPhp, push_eq] at h
  case' brk => rw [execBrk, interruptSequence_eq (by decide) (by decide)] at h
  case' pla => rw [execPla, pop_eq] at h
  case' plp => rw [execPlp, pop_eq] at h
  case' rts => rw [execRts, popAddress_eq] at h
  case' rti => rw [execRti, returnFromInterrupt_eq] at h
  all_goals
    cases h
    constructor
    · refine ⟨?_, ?_, ?_, ?_, ?_, ?_⟩ <;> first | exact fun _ => rfl | exact fun h => absurd (by decide) h
  case php | plp | rti | brk => exact fun hmn => absurd (by decide) hmn
  all_goals
    intro _
    repeat refine SameBitsBut.putFlag ?_ (by decide) _
    exact SameBitsBut.refl _ _

/-- A modification writes flags of its mnemonic only. -/
theorem modifyRule_writes {mn : Mnemonic} {res flags : Byte → Byte → Byte} (hr : ruleOf mn = .modify res flags)
    (p old : Byte) : SameBitsBut (writtenFlags mn) p (flags p old) := by
  cases mn <;> cases hr
  all_goals
    repeat refine SameBitsBut.putFlag ?_ (by decide) _
    exact SameBitsBut.refl _ _

/-- JMP writes PC. -/
theorem jumpRule_writes {mn : Mnemonic} (hr : ruleOf mn = .jump) {place : Place} {u t : State}
    (h : jumpTo place u = .next t) : Writes mn u t := by
  have hpc : mn ∈ pcWriters := by
    cases mn <;> cases hr
    decide
  rw [jumpTo_eq] at h
  cases h
  exact (effectiveAddress_onlyPorts place u).writes
    ⟨⟨fun _ => rfl, fun _ => rfl, fun _ => rfl, fun _ => rfl, fun hno => absurd hpc hno, fun _ => rfl⟩,
      fun _ => .refl _ _⟩

/-- JSR writes PC, SP and the bus. -/
theorem callRule_writes {mn : Mnemonic} (hr : ruleOf mn = .call) {place : Place} {u t : State}
    (h : callTo place u = .next t) : Writes mn u t := by
  obtain ⟨hsp, hpc, hbus⟩ : mn ∈ spWriters ∧ mn ∈ pcWriters ∧ mn ∈ busWriters := by
    cases mn <;> cases hr
    decide
  rw [callTo_eq, pushAddress_eq] at h
  cases h
  exact (effectiveAddress_onlyPorts place u).writes
    ⟨⟨fun _ => rfl, fun _ => rfl, fun _ => rfl, fun hno => absurd hsp hno, fun hno => absurd hpc hno,
      fun hno => absurd hbus hno⟩, fun _ => .refl _ _⟩

/-- A branch writes PC. -/
theorem branchRule_writes {mn : Mnemonic} {test : Byte → Bool} (hr : ruleOf mn = .branch test) {taken : Bool} {d : Byte}
    {u t : State} (h : branchIf taken d u = .next t) : Writes mn u t := by
  have hpc : mn ∈ pcWriters := by cases mn <;> cases hr <;> decide
  rw [branchIf_eq] at h
  cases h
  exact ⟨⟨fun _ => rfl, fun _ => rfl, fun _ => rfl, fun _ => rfl, fun hno => absurd hpc hno, fun _ => rfl⟩,
    fun _ => .refl _ _⟩

/-- A store writes the bus. -/
theorem storeRule_writes {mn : Mnemonic} {v : State → Byte} (hr : ruleOf mn = .store v) {place : Place} {u t : State}
    (h : storePlace place v u = .next t) : Writes mn u t := by
  have hbus : mn ∈ busWriters := by cases mn <;> cases hr <;> decide
  rw [storePlace_eq] at h
  rw [memWrite_frame h]
  exact (effectiveAddress_onlyPorts place u).writes
    ⟨⟨fun _ => rfl, fun _ => rfl, fun _ => rfl, fun _ => rfl, fun _ => rfl, fun hno => absurd hbus hno⟩,
      fun _ => .refl _ _⟩

/-- A memory form that modifies changes the bus, memory and the status byte only. -/
theorem modifyPlace_frame {place : Place} {res flags : Byte → Byte → Byte} {u t : State}
    (h : modifyPlace place res flags u = .next t) :
    ∃ old, t = { u with mem := t.mem, events := t.events, draws := t.draws, p := flags u.p old } := by
  have hports := readPlace_onlyPorts place u
  rw [modifyPlace_eq] at h
  obtain ⟨w, hw, rfl⟩ := onNext_eq_next.mp h
  refine ⟨(readPlace place u).1, ?_⟩
  have hp : w.p = u.p := (memWrite_p hw).trans hports.p
  have hframe := memWrite_frame hw
  rw [hports] at hframe
  rw [hp, hframe]
  rfl

/-- An accumulator form writes A, a memory form that modifies the bus (10_state R21). -/
theorem writesA_of_modify {i : Instr} {res flags : Byte → Byte → Byte} (hr : ruleOf i.mnemonic = .modify res flags)
    (ho : i.operand = .accumulator) : writesA i = true := by
  cases i <;> cases hr <;> first | rfl | cases ho

theorem writesBus_of_modify {i : Instr} {res flags : Byte → Byte → Byte} (hr : ruleOf i.mnemonic = .modify res flags)
    (ho : i.operand ≠ .accumulator) : writesBus i = true := by
  cases i <;> cases hr <;> first | rfl | exact absurd rfl ho

/-- A store has a memory mode. -/
theorem operand_ne_accumulator_of_store {i : Instr} {v : State → Byte} (hr : ruleOf i.mnemonic = .store v) :
    i.operand ≠ .accumulator := by
  cases i <;> cases hr <;> nofun

/-- From `s` to `t` only those registers, and memory, change that instruction `i` is a writer of (10_state R21 to
R25). -/
def WritesOnly (i : Instr) (s t : State) : Prop :=
  (writesA i = false → t.a = s.a) ∧ (i.mnemonic ∉ xWriters → t.x = s.x) ∧ (i.mnemonic ∉ yWriters → t.y = s.y) ∧
    (i.mnemonic ∉ spWriters → t.sp = s.sp) ∧ (i.mnemonic ∉ pcWriters → t.pc = s.pc) ∧
    (writesBus i = false → t.mem = s.mem)

theorem RegistersBut.writesOnly {i : Instr} {s t : State} (h : RegistersBut i.mnemonic s t) : WritesOnly i s t := by
  obtain ⟨ha, hx, hy, hsp, hpc, hmem⟩ := h
  exact ⟨fun hi => ha (not_mem_aWriters hi), hx, hy, hsp, hpc, fun hi => hmem (not_mem_busWriters hi)⟩

/-- A modification in the accumulator mode writes A, in a memory mode the bus, and the flags of its mnemonic. -/
theorem exec_modify_writes {i : Instr} {res flags : Byte → Byte → Byte} (hr : ruleOf i.mnemonic = .modify res flags)
    {s t : State} (h : exec i s = .next t) :
    WritesOnly i s t ∧ SameBitsBut (writtenFlags i.mnemonic) s.p t.p := by
  have hflags := modifyRule_writes hr s.p
  rw [exec_eq_runRule] at h
  by_cases ho : i.operand = .accumulator
  · have ha := writesA_of_modify hr ho
    rw [ho, runRule_modify_accumulator hr] at h
    cases h
    exact ⟨⟨fun hno => absurd ha (by simp [hno]), fun _ => rfl, fun _ => rfl, fun _ => rfl, fun _ => rfl,
      fun _ => rfl⟩, hflags s.a⟩
  · have hbus := writesBus_of_modify hr ho
    rw [runRule_modify hr ho] at h
    obtain ⟨old, hframe⟩ := modifyPlace_frame h
    rw [takePlace_onlyPorts i.operand s] at hframe
    rw [hframe]
    exact ⟨⟨fun _ => rfl, fun _ => rfl, fun _ => rfl, fun _ => rfl, fun _ => rfl,
      fun hno => absurd hbus (by simp [hno])⟩, hflags old⟩

/-- What a completed instruction that is no modification may change, by the kind of its mnemonic's rule. -/
theorem exec_writes_of_not_modify {i : Instr} (hi : ∀ res flags, ruleOf i.mnemonic ≠ .modify res flags) {s t : State}
    (h : exec i s = .next t) : Writes i.mnemonic s t := by
  rw [exec_eq_runRule] at h
  cases hr : ruleOf i.mnemonic with
  | value f =>
    rw [runRule_value hr] at h
    cases h
    exact (takeValue_onlyPorts i.operand s).writes (valueRule_writes hr _ _)
  | store v =>
    rw [runRule_store hr (operand_ne_accumulator_of_store hr)] at h
    exact (takePlace_onlyPorts i.operand s).writes (storeRule_writes hr h)
  | modify res flags => exact absurd hr (hi res flags)
  | jump =>
    rw [runRule_jump hr] at h
    exact (takePlace_onlyPorts i.operand s).writes (jumpRule_writes hr h)
  | call =>
    rw [runRule_call hr] at h
    exact (takePlace_onlyPorts i.operand s).writes (callRule_writes hr h)
  | branch test =>
    rw [runRule_branch hr] at h
    exact (takeDisplacement_onlyPorts i.operand s).writes (branchRule_writes hr h)
  | alone run =>
    rw [runRule_alone hr] at h
    exact (resolveOnly_onlyPorts i.operand s).writes (aloneRule_writes hr h)

/-- What a completed instruction may change in the registers, memory and the status byte (10_state R21 to R29). -/
theorem exec_writes {i : Instr} {s t : State} (h : exec i s = .next t) :
    WritesOnly i s t ∧ (i.mnemonic ∉ reservedWriters → SameBitsBut (writtenFlags i.mnemonic) s.p t.p) := by
  by_cases hi : ∃ res flags, ruleOf i.mnemonic = .modify res flags
  · obtain ⟨res, flags, hr⟩ := hi
    obtain ⟨hregs, hflags⟩ := exec_modify_writes hr h
    exact ⟨hregs, fun _ => hflags⟩
  · push Not at hi
    obtain ⟨hregs, hflags⟩ := exec_writes_of_not_modify hi h
    exact ⟨hregs.writesOnly, hflags⟩

/-- Settles O58: the registers by `exec_writes`, the rest by `runRule_keeps`. -/
theorem eachRegisterHasItsWriters : Obligations.EachRegisterHasItsWriters := by
  intro i s t h
  obtain ⟨⟨ha, hx, hy, hsp, hpc, hmem⟩, -⟩ := exec_writes h
  obtain ⟨-, hfaulted, hirq, htrace, hstarted, hagenda, hdriver, hmap⟩ := runRule_keeps (exec_eq_runRule i s ▸ h)
  exact ⟨ha, hx, hy, hsp, hpc, hmem, hfaulted, htrace, hmap, hirq, hagenda, hdriver, hstarted⟩

/-! ## Flags -/

theorem mem_writtenFlags {mn : Mnemonic} {f : Flag} : f ∈ writtenFlags mn ↔ mn ∈ flagWriters f := by
  have hall : f ∈ [Flag.c, .z, .i, .d, .v, .n] := by cases f <;> decide
  rw [writtenFlags, List.mem_filter, List.contains_iff_mem]
  exact and_iff_right hall

/-- A flag outside those the mnemonic writes is as it was. -/
theorem SameBitsBut.getFlag_eq {fs : List Flag} {p q : Byte} (h : SameBitsBut fs p q) {f : Flag} (hf : f ∉ fs) :
    getFlag f q = getFlag f p :=
  h f.bit f.bit_lt fun _ hg hbit => hf (Flag.bit_inj.mp hbit ▸ hg)

theorem exec_php_p {i : Instr} {s t : State} (hi : i.mnemonic = .php) (h : exec i s = .next t) :
    t.p = forceReserved s.p := by
  rw [exec_eq_runRule, hi, runRule_alone rfl, execPhp, push_eq] at h
  cases h
  exact congrArg forceReserved (resolveOnly_onlyPorts i.operand s).p

theorem exec_brk_p {i : Instr} {s t : State} (hi : i.mnemonic = .brk) (h : exec i s = .next t) :
    t.p = putFlag .i true (forceReserved s.p) := by
  rw [exec_eq_runRule, hi, runRule_alone rfl, execBrk, interruptSequence_eq (by decide) (by decide)] at h
  cases h
  exact congrArg (fun p => putFlag .i true (forceReserved p)) (resolveOnly_onlyPorts i.operand s).p

theorem exec_sei_p {i : Instr} {s t : State} (hi : i.mnemonic = .sei) (h : exec i s = .next t) :
    t.p = putFlag .i true s.p := by
  rw [exec_eq_runRule, hi, runRule_alone rfl, execSei] at h
  cases h
  exact congrArg (putFlag .i true) (resolveOnly_onlyPorts i.operand s).p

/-- A flag changes only under a mnemonic that writes it (10_state R29). -/
theorem exec_getFlag_eq {i : Instr} {s t : State} (h : exec i s = .next t) {f : Flag}
    (hf : i.mnemonic ∉ flagWriters f) :
    getFlag f t.p = getFlag f s.p := by
  by_cases hres : i.mnemonic ∈ reservedWriters
  · have hall (mn : Mnemonic) (hmn : mn = .plp ∨ mn = .rti) : mn ∈ flagWriters f := by
      rcases hmn with rfl | rfl <;> cases f <;> decide
    simp only [reservedWriters, List.mem_cons, List.not_mem_nil, or_false] at hres
    rcases hres with hphp | hbrk | hplp
    · rw [exec_php_p hphp h, getFlag_forceReserved]
    · have hne : f ≠ .i := by
        rintro rfl
        rw [hbrk] at hf
        exact hf (by decide)
      rw [exec_brk_p hbrk h, getFlag_putFlag, if_neg hne, getFlag_forceReserved]
    · exact absurd (hall _ hplp) hf
  · exact ((exec_writes h).2 hres).getFlag_eq (mem_writtenFlags.not.mpr hf)

/-- Settles O57: a flag is no bit of a mnemonic that does not write it, and of the writers of I only PLP and RTI clear
it. -/
theorem eachFlagHasItsWriters : Obligations.EachFlagHasItsWriters := by
  intro i s t h
  refine ⟨fun f hf => exec_getFlag_eq h hf, fun hres => ?reserved, fun hset hclear => ?cleared⟩
  case reserved =>
    have hbits := (exec_writes h).2 hres
    exact ⟨hbits 4 (by decide) fun f _ => by cases f <;> decide, hbits 5 (by decide) fun f _ => by cases f <;> decide⟩
  case cleared =>
    by_cases hi : i.mnemonic ∈ flagWriters .i
    · simp only [flagWriters, List.mem_cons, List.not_mem_nil, or_false] at hi
      rcases hi with hsei | hbrk | hpull
      · simp [exec_sei_p hsei h] at hclear
      · simp [exec_brk_p hbrk h] at hclear
      · exact hpull
    · rw [exec_getFlag_eq h hi, hset] at hclear
      cases hclear

/-! ## What stops -/

/-- A write completes, or is the OAM DMA refused (20_memory R51, R69). -/
theorem memWrite_completes_or (ea : Word) (v : Byte) (s : State) :
    (∃ t, memWrite ea v s = .next t) ∨
      ea = 0x4014 ∧ 0x20 ≤ v.toNat ∧ memWrite ea v s = .refused (.oamDmaSourceNotRam v) := by
  rcases memWrite_cases ea v s with ⟨-, he⟩ | ⟨-, -, e, he⟩ | ⟨hea, hv, he⟩
  · exact .inl ⟨_, he⟩
  · exact .inl ⟨_, he⟩
  · exact .inr ⟨BitVec.eq_of_toNat_eq hea, hv, he⟩

theorem storePlace_completes_or (place : Place) (v : State → Byte) (u : State) :
    (∃ t, storePlace place v u = .next t) ∨
      ∃ b, (effectiveAddress place u).1 = 0x4014 ∧ 0x20 ≤ b.toNat ∧
        storePlace place v u = .refused (.oamDmaSourceNotRam b) := by
  rw [storePlace_eq]
  exact (memWrite_completes_or _ _ _).imp_right fun h => ⟨_, h⟩

theorem modifyPlace_completes_or (place : Place) (res flags : Byte → Byte → Byte) (u : State) :
    (∃ t, modifyPlace place res flags u = .next t) ∨
      ∃ b, (effectiveAddress place u).1 = 0x4014 ∧ 0x20 ≤ b.toNat ∧
        modifyPlace place res flags u = .refused (.oamDmaSourceNotRam b) := by
  simp only [modifyPlace_eq]
  rcases memWrite_completes_or (effectiveAddress place u).1 (res (readPlace place u).2.p (readPlace place u).1)
    (readPlace place u).2 with ⟨t, ht⟩ | ⟨hea, hb, he⟩
  · exact .inl ⟨_, onNext_eq_next.mpr ⟨t, ht, rfl⟩⟩
  · exact .inr ⟨_, hea, hb, by rw [he, onNext_refused]⟩

/-- What a mnemonic does alone completes: the pushes and pops are in RAM, and the vectors in ROM. -/
theorem aloneRule_completes {mn : Mnemonic} {run : State → Host.Outcome State Fault Refusal}
    (hr : ruleOf mn = .alone run) (u : State) : ∃ t, run u = .next t := by
  cases mn <;> cases hr
  case pha => exact ⟨_, push_eq _ _⟩
  case php => exact ⟨_, push_eq _ _⟩
  case brk => exact ⟨_, interruptSequence_eq (by decide) (by decide) _ _⟩
  all_goals exact ⟨_, rfl⟩

/-- The mnemonics that write a place. -/
def placeWriters : List Mnemonic := [.sta, .stx, .sty, .inc, .dec, .asl, .lsr, .rol, .ror]

theorem mem_placeWriters_of_store {mn : Mnemonic} {v : State → Byte} (hr : ruleOf mn = .store v) :
    mn ∈ placeWriters := by
  cases mn <;> cases hr <;> decide

theorem mem_placeWriters_of_modify {mn : Mnemonic} {res flags : Byte → Byte → Byte}
    (hr : ruleOf mn = .modify res flags) : mn ∈ placeWriters := by
  cases mn <;> cases hr <;> decide

/-- A mnemonic's rule completes, on an operand of any mode, but for a store or a modification that starts the OAM DMA
refused (20_memory R69). -/
theorem runRule_completes_or (mn : Mnemonic) (o : Operand) (s : State) :
    (∃ t, runRule mn o s = .next t) ∨
      o ≠ .accumulator ∧ ∃ v, (effectiveAddress (takePlace o s).1 (takePlace o s).2).1 = 0x4014 ∧ 0x20 ≤ v.toNat ∧
        mn ∈ placeWriters ∧ runRule mn o s = .refused (.oamDmaSourceNotRam v) := by
  cases hr : ruleOf mn with
  | value f => exact .inl ⟨_, runRule_value hr o s⟩
  | store v =>
    by_cases ho : o = .accumulator
    · exact .inl ⟨_, ho ▸ runRule_store_accumulator hr s⟩
    · rw [runRule_store hr ho]
      exact (storePlace_completes_or _ _ _).imp_right fun ⟨b, hea, hb, he⟩ =>
        ⟨ho, b, hea, hb, mem_placeWriters_of_store hr, he⟩
  | modify res flags =>
    by_cases ho : o = .accumulator
    · exact .inl ⟨_, ho ▸ runRule_modify_accumulator hr s⟩
    · rw [runRule_modify hr ho]
      exact (modifyPlace_completes_or _ _ _ _).imp_right fun ⟨b, hea, hb, he⟩ =>
        ⟨ho, b, hea, hb, mem_placeWriters_of_modify hr, he⟩
  | jump => exact .inl ⟨_, (runRule_jump hr o s).trans (jumpTo_eq _ _)⟩
  | call =>
    rw [runRule_call hr, callTo_eq, pushAddress_eq]
    exact .inl ⟨_, rfl⟩
  | branch test => exact .inl ⟨_, (runRule_branch hr o s).trans (branchIf_eq _ _ _)⟩
  | alone run =>
    rw [runRule_alone hr]
    exact .inl (aloneRule_completes hr _)

/-- An instruction that writes a place is in the accumulator mode or in one with a place (30_encoding R110). -/
theorem operand_of_placeWriter {i : Instr} (hi : i.mnemonic ∈ placeWriters) (ho : i.operand ≠ .accumulator) :
    ∃ place, i.operand = .memory place := by
  have hadmits := Instr.admits_mode (i := i) rfl
  have hmodes : ∀ mn ∈ placeWriters, mn.admits .imp = false ∧ mn.admits .imm = false ∧ mn.admits .rel = false := by
    decide
  obtain ⟨himp, himm, hrel⟩ := hmodes _ hi
  unfold Instr.mode at hadmits
  cases hop : i.operand with
  | memory place => exact ⟨place, rfl⟩
  | accumulator => exact absurd hop ho
  | implied => rw [hop, show Operand.implied.mode = .imp from rfl, himp] at hadmits; cases hadmits
  | immediate d => rw [hop, show (Operand.immediate d).mode = .imm from rfl, himm] at hadmits; cases hadmits
  | relative d => rw [hop, show (Operand.relative d).mode = .rel from rfl, hrel] at hadmits; cases hadmits

/-- Settles O60: every kind of rule completes but for the write of a place. -/
theorem onlyTheOamDmaStops : Obligations.OnlyTheOamDmaStops := by
  refine ⟨fun i s => ?_, fun mn o s => (runRule_completes_or mn o s).imp_right fun h => h.2⟩
  rw [exec_eq_runRule]
  refine (runRule_completes_or i.mnemonic i.operand s).imp_right fun ⟨ho, v, hea, hv, hi, he⟩ => ?_
  obtain ⟨place, hop⟩ := operand_of_placeWriter hi ho
  rw [hop] at hea
  exact ⟨place, v, hop, hea, hv, hi, he⟩

end Sys2Proof.Machine
end
